-- ==== Sys2Proof/Word.lean ====
section
/-!
DEFINITION. The bit widths of the machine: bytes, the fields of an instruction word, words.
Bit 0 is the least significant bit of every value and all values are unsigned (00_scope.md R7).
-/

namespace Sys2Proof

/-- A byte: a memory cell, a general register, the field `nn` (00_scope.md R7, R8). -/
abbrev Byte := BitVec 8

/-- A 4-bit field: a register index `x` or `y`, a sprite height `n` (30_encoding.md R71). -/
abbrev Nibble := BitVec 4

/-- A 12-bit address field `nnn` (30_encoding.md R71). -/
abbrev Addr := BitVec 12

/-- A 16-bit value: an instruction word, `pc`, `I`, a stack entry, a key latch (10_state.md R43). -/
abbrev Word := BitVec 16

end Sys2Proof
end

