-- ==== Sys2Proof/Syntax.lean ====
section
/-!
DEFINITION. The instructions, one constructor per row of spec/opcode_table.json in the table's order
(30_encoding.md R73). A constructor holds the fields its row uses, at the width the decoder gives them (R71).
UNKNOWN is no row of the table: the decoder names it (Sys2Proof/Decode.lean, log 11).
-/

namespace Sys2Proof

/-- An instruction of base CHIP-8 (30_encoding.md R73, rows 1 to 35). -/
inductive Instr where
  /-- `CLS` (00E0). -/
  | cls
  /-- `RET` (00EE). -/
  | ret
  /-- `SYS addr` (0nnn). -/
  | sys (nnn : Addr)
  /-- `JP addr` (1nnn). -/
  | jp (nnn : Addr)
  /-- `CALL addr` (2nnn). -/
  | call (nnn : Addr)
  /-- `SE Vx,byte` (3xnn). -/
  | seImm (x : Nibble) (nn : Byte)
  /-- `SNE Vx,byte` (4xnn). -/
  | sneImm (x : Nibble) (nn : Byte)
  /-- `SE Vx,Vy` (5xyn, n ignored). -/
  | seReg (x y : Nibble)
  /-- `LD Vx,byte` (6xnn). -/
  | ldImm (x : Nibble) (nn : Byte)
  /-- `ADD Vx,byte` (7xnn). -/
  | addImm (x : Nibble) (nn : Byte)
  /-- `LD Vx,Vy` (8xy0). -/
  | ldReg (x y : Nibble)
  /-- `OR Vx,Vy` (8xy1). -/
  | orReg (x y : Nibble)
  /-- `AND Vx,Vy` (8xy2). -/
  | andReg (x y : Nibble)
  /-- `XOR Vx,Vy` (8xy3). -/
  | xorReg (x y : Nibble)
  /-- `ADD Vx,Vy` (8xy4). -/
  | addReg (x y : Nibble)
  /-- `SUB Vx,Vy` (8xy5). -/
  | subReg (x y : Nibble)
  /-- `SHR Vx` (8xy6, y ignored). -/
  | shr (x : Nibble)
  /-- `SUBN Vx,Vy` (8xy7). -/
  | subnReg (x y : Nibble)
  /-- `SHL Vx` (8xyE, y ignored). -/
  | shl (x : Nibble)
  /-- `SNE Vx,Vy` (9xyn, n ignored). -/
  | sneReg (x y : Nibble)
  /-- `LD I,addr` (Annn). -/
  | ldI (nnn : Addr)
  /-- `JP V0,addr` (Bnnn). -/
  | jpV0 (nnn : Addr)
  /-- `RND Vx,byte` (Cxnn). -/
  | rnd (x : Nibble) (nn : Byte)
  /-- `DRW Vx,Vy,n` (Dxyn). -/
  | drw (x y n : Nibble)
  /-- `SKP Vx` (Ex9E). -/
  | skp (x : Nibble)
  /-- `SKNP Vx` (ExA1). -/
  | sknp (x : Nibble)
  /-- `LD Vx,DT` (Fx07). -/
  | ldVxDt (x : Nibble)
  /-- `LD Vx,K` (Fx0A). -/
  | ldVxK (x : Nibble)
  /-- `LD DT,Vx` (Fx15). -/
  | ldDtVx (x : Nibble)
  /-- `LD ST,Vx` (Fx18). -/
  | ldStVx (x : Nibble)
  /-- `ADD I,Vx` (Fx1E). -/
  | addI (x : Nibble)
  /-- `LD F,Vx` (Fx29). -/
  | ldF (x : Nibble)
  /-- `LD B,Vx` (Fx33). -/
  | ldB (x : Nibble)
  /-- `LD [I],Vx` (Fx55). -/
  | ldMemVx (x : Nibble)
  /-- `LD Vx,[I]` (Fx65). -/
  | ldVxMem (x : Nibble)
  deriving DecidableEq, Repr

end Sys2Proof
end

