-- ==== Sys2Proof/Decode.lean ====
section
/-!
DEFINITION. The decoder (30_encoding.md R71, R74 to R78): a total pure function of the 16-bit word, which names a
word of no operation UNKNOWN; and the encoder, its inverse (R83).
-/

namespace Sys2Proof

/-- The decoder's operation: one of the 35 instructions, or UNKNOWN with its word (30_encoding.md R73, row 36). -/
inductive MicroOp where
  | known (i : Instr)
  | unknown (word : Word)
  deriving DecidableEq, Repr

/-- The decoder's output record, every field of every word extracted (30_encoding.md R71, decision D23). -/
structure Decoded where
  uop : MicroOp
  x : Nibble
  y : Nibble
  n : Nibble
  nn : Byte
  nnn : Addr
  word : Word
  deriving DecidableEq, Repr

/-- `op`, `word[15:12]` (30_encoding.md R71). -/
def fieldOp (w : Word) : Nibble := w.extractLsb' 12 4

/-- `x`, `word[11:8]` (30_encoding.md R71). -/
def fieldX (w : Word) : Nibble := w.extractLsb' 8 4

/-- `y`, `word[7:4]` (30_encoding.md R71). -/
def fieldY (w : Word) : Nibble := w.extractLsb' 4 4

/-- `n`, `word[3:0]` (30_encoding.md R71). -/
def fieldN (w : Word) : Nibble := w.extractLsb' 0 4

/-- `nn`, `word[7:0]` (30_encoding.md R71). -/
def fieldNN (w : Word) : Byte := w.extractLsb' 0 8

/-- `nnn`, `word[11:0]` (30_encoding.md R71). -/
def fieldNNN (w : Word) : Addr := w.extractLsb' 0 12

/-- Family 0: CLS and RET from their exact words only, else SYS (30_encoding.md R75). -/
def decodeFamily0 (w : Word) : MicroOp :=
  if w = 0x00E0#16 then .known .cls
  else if w = 0x00EE#16 then .known .ret
  else .known (.sys (fieldNNN w))

/-- Family 8 selects on its low nibble (30_encoding.md R77). -/
def decodeFamily8 (w : Word) : MicroOp :=
  let x := fieldX w
  let y := fieldY w
  match fieldN w with
  | 0x0#4 => .known (.ldReg x y)
  | 0x1#4 => .known (.orReg x y)
  | 0x2#4 => .known (.andReg x y)
  | 0x3#4 => .known (.xorReg x y)
  | 0x4#4 => .known (.addReg x y)
  | 0x5#4 => .known (.subReg x y)
  | 0x6#4 => .known (.shr x)
  | 0x7#4 => .known (.subnReg x y)
  | 0xE#4 => .known (.shl x)
  | _ => .unknown w

/-- Family E selects on its low byte (30_encoding.md R78). -/
def decodeFamilyE (w : Word) : MicroOp :=
  match fieldNN w with
  | 0x9E#8 => .known (.skp (fieldX w))
  | 0xA1#8 => .known (.sknp (fieldX w))
  | _ => .unknown w

/-- Family F selects on its low byte (30_encoding.md R78). -/
def decodeFamilyF (w : Word) : MicroOp :=
  let x := fieldX w
  match fieldNN w with
  | 0x07#8 => .known (.ldVxDt x)
  | 0x0A#8 => .known (.ldVxK x)
  | 0x15#8 => .known (.ldDtVx x)
  | 0x18#8 => .known (.ldStVx x)
  | 0x1E#8 => .known (.addI x)
  | 0x29#8 => .known (.ldF x)
  | 0x33#8 => .known (.ldB x)
  | 0x55#8 => .known (.ldMemVx x)
  | 0x65#8 => .known (.ldVxMem x)
  | _ => .unknown w

/-- The tag of a word, on the primary selector `op` (30_encoding.md R74). Families 5 and 9 have no secondary
selector, so `n` is ignored (R76). -/
def decodeOp (w : Word) : MicroOp :=
  match fieldOp w with
  | 0x0#4 => decodeFamily0 w
  | 0x1#4 => .known (.jp (fieldNNN w))
  | 0x2#4 => .known (.call (fieldNNN w))
  | 0x3#4 => .known (.seImm (fieldX w) (fieldNN w))
  | 0x4#4 => .known (.sneImm (fieldX w) (fieldNN w))
  | 0x5#4 => .known (.seReg (fieldX w) (fieldY w))
  | 0x6#4 => .known (.ldImm (fieldX w) (fieldNN w))
  | 0x7#4 => .known (.addImm (fieldX w) (fieldNN w))
  | 0x8#4 => decodeFamily8 w
  | 0x9#4 => .known (.sneReg (fieldX w) (fieldY w))
  | 0xA#4 => .known (.ldI (fieldNNN w))
  | 0xB#4 => .known (.jpV0 (fieldNNN w))
  | 0xC#4 => .known (.rnd (fieldX w) (fieldNN w))
  | 0xD#4 => .known (.drw (fieldX w) (fieldY w) (fieldN w))
  | 0xE#4 => decodeFamilyE w
  | _ => decodeFamilyF w

/-- The decoder: total, pure, and with an UNKNOWN variant instead of a failure (30_encoding.md R74). -/
def decode (w : Word) : Decoded :=
  { uop := decodeOp w, x := fieldX w, y := fieldY w, n := fieldN w, nn := fieldNN w, nnn := fieldNNN w, word := w }

/-- The word of two bytes, the one at the lower address in bits 15..8 (20_memory.md R52). -/
def wordOfBytes (hi lo : Byte) : Word := hi ++ lo

/-- The byte a word stores at the lower address (20_memory.md R52). -/
def highByte (w : Word) : Byte := w.extractLsb' 8 8

/-- The byte a word stores at the higher address (20_memory.md R52). -/
def lowByte (w : Word) : Byte := w.extractLsb' 0 8

/-- The decoder on the two bytes of an instruction; it always consumes exactly two (30_encoding.md R70). -/
def decodeBytes (hi lo : Byte) : Decoded := decode (wordOfBytes hi lo)

/-- The encoder: each row's pattern with its fields in place and the bits it ignores 0 (30_encoding.md R73, R83). -/
def encode : Instr → Word
  | .cls => 0x00E0#16
  | .ret => 0x00EE#16
  | .sys nnn => 0x0#4 ++ nnn
  | .jp nnn => 0x1#4 ++ nnn
  | .call nnn => 0x2#4 ++ nnn
  | .seImm x nn => 0x3#4 ++ x ++ nn
  | .sneImm x nn => 0x4#4 ++ x ++ nn
  | .seReg x y => 0x5#4 ++ x ++ y ++ 0x0#4
  | .ldImm x nn => 0x6#4 ++ x ++ nn
  | .addImm x nn => 0x7#4 ++ x ++ nn
  | .ldReg x y => 0x8#4 ++ x ++ y ++ 0x0#4
  | .orReg x y => 0x8#4 ++ x ++ y ++ 0x1#4
  | .andReg x y => 0x8#4 ++ x ++ y ++ 0x2#4
  | .xorReg x y => 0x8#4 ++ x ++ y ++ 0x3#4
  | .addReg x y => 0x8#4 ++ x ++ y ++ 0x4#4
  | .subReg x y => 0x8#4 ++ x ++ y ++ 0x5#4
  | .shr x => 0x8#4 ++ x ++ 0x0#4 ++ 0x6#4
  | .subnReg x y => 0x8#4 ++ x ++ y ++ 0x7#4
  | .shl x => 0x8#4 ++ x ++ 0x0#4 ++ 0xE#4
  | .sneReg x y => 0x9#4 ++ x ++ y ++ 0x0#4
  | .ldI nnn => 0xA#4 ++ nnn
  | .jpV0 nnn => 0xB#4 ++ nnn
  | .rnd x nn => 0xC#4 ++ x ++ nn
  | .drw x y n => 0xD#4 ++ x ++ y ++ n
  | .skp x => 0xE#4 ++ x ++ 0x9E#8
  | .sknp x => 0xE#4 ++ x ++ 0xA1#8
  | .ldVxDt x => 0xF#4 ++ x ++ 0x07#8
  | .ldVxK x => 0xF#4 ++ x ++ 0x0A#8
  | .ldDtVx x => 0xF#4 ++ x ++ 0x15#8
  | .ldStVx x => 0xF#4 ++ x ++ 0x18#8
  | .addI x => 0xF#4 ++ x ++ 0x1E#8
  | .ldF x => 0xF#4 ++ x ++ 0x29#8
  | .ldB x => 0xF#4 ++ x ++ 0x33#8
  | .ldMemVx x => 0xF#4 ++ x ++ 0x55#8
  | .ldVxMem x => 0xF#4 ++ x ++ 0x65#8

/-- A row of the opcode map: its number, and the `match` and `mask` that select it (30_encoding.md R73). -/
structure TableRow where
  number : Nat
  matchBits : Word
  maskBits : Word
  deriving DecidableEq, Repr

/-- Rows 1 to 18 of the opcode map (30_encoding.md R73). -/
def opcodeRowsLow : List TableRow :=
  [⟨1, 0x00E0#16, 0xFFFF#16⟩, ⟨2, 0x00EE#16, 0xFFFF#16⟩, ⟨3, 0x0000#16, 0xF000#16⟩,
   ⟨4, 0x1000#16, 0xF000#16⟩, ⟨5, 0x2000#16, 0xF000#16⟩, ⟨6, 0x3000#16, 0xF000#16⟩,
   ⟨7, 0x4000#16, 0xF000#16⟩, ⟨8, 0x5000#16, 0xF000#16⟩, ⟨9, 0x6000#16, 0xF000#16⟩,
   ⟨10, 0x7000#16, 0xF000#16⟩, ⟨11, 0x8000#16, 0xF00F#16⟩, ⟨12, 0x8001#16, 0xF00F#16⟩,
   ⟨13, 0x8002#16, 0xF00F#16⟩, ⟨14, 0x8003#16, 0xF00F#16⟩, ⟨15, 0x8004#16, 0xF00F#16⟩,
   ⟨16, 0x8005#16, 0xF00F#16⟩, ⟨17, 0x8006#16, 0xF00F#16⟩, ⟨18, 0x8007#16, 0xF00F#16⟩]

/-- Rows 19 to 35 of the opcode map (30_encoding.md R73). -/
def opcodeRowsHigh : List TableRow :=
  [⟨19, 0x800E#16, 0xF00F#16⟩, ⟨20, 0x9000#16, 0xF000#16⟩, ⟨21, 0xA000#16, 0xF000#16⟩,
   ⟨22, 0xB000#16, 0xF000#16⟩, ⟨23, 0xC000#16, 0xF000#16⟩, ⟨24, 0xD000#16, 0xF000#16⟩,
   ⟨25, 0xE09E#16, 0xF0FF#16⟩, ⟨26, 0xE0A1#16, 0xF0FF#16⟩, ⟨27, 0xF007#16, 0xF0FF#16⟩,
   ⟨28, 0xF00A#16, 0xF0FF#16⟩, ⟨29, 0xF015#16, 0xF0FF#16⟩, ⟨30, 0xF018#16, 0xF0FF#16⟩,
   ⟨31, 0xF01E#16, 0xF0FF#16⟩, ⟨32, 0xF029#16, 0xF0FF#16⟩, ⟨33, 0xF033#16, 0xF0FF#16⟩,
   ⟨34, 0xF055#16, 0xF0FF#16⟩, ⟨35, 0xF065#16, 0xF0FF#16⟩]

/-- The opcode map, in the table's order (30_encoding.md R73). -/
def opcodeRows : List TableRow := opcodeRowsLow ++ opcodeRowsHigh

/-- `word & mask == match` (30_encoding.md R73). -/
def TableRow.selects (r : TableRow) (w : Word) : Bool := w &&& r.maskBits == r.matchBits

/-- The number of the first row of the map that selects a word, 36 (UNKNOWN) where none does (30_encoding.md R73). -/
def firstRow (w : Word) : Nat :=
  match opcodeRows.find? fun r => r.selects w with
  | some r => r.number
  | none => 36

/-- The row number of an instruction (30_encoding.md R73, column "#"). -/
def Instr.rowNumber : Instr → Nat
  | .cls => 1
  | .ret => 2
  | .sys _ => 3
  | .jp _ => 4
  | .call _ => 5
  | .seImm _ _ => 6
  | .sneImm _ _ => 7
  | .seReg _ _ => 8
  | .ldImm _ _ => 9
  | .addImm _ _ => 10
  | .ldReg _ _ => 11
  | .orReg _ _ => 12
  | .andReg _ _ => 13
  | .xorReg _ _ => 14
  | .addReg _ _ => 15
  | .subReg _ _ => 16
  | .shr _ => 17
  | .subnReg _ _ => 18
  | .shl _ => 19
  | .sneReg _ _ => 20
  | .ldI _ => 21
  | .jpV0 _ => 22
  | .rnd _ _ => 23
  | .drw _ _ _ => 24
  | .skp _ => 25
  | .sknp _ => 26
  | .ldVxDt _ => 27
  | .ldVxK _ => 28
  | .ldDtVx _ => 29
  | .ldStVx _ => 30
  | .addI _ => 31
  | .ldF _ => 32
  | .ldB _ => 33
  | .ldMemVx _ => 34
  | .ldVxMem _ => 35

/-- The row number of a decoded operation, UNKNOWN being row 36 (30_encoding.md R73). -/
def MicroOp.rowNumber : MicroOp → Nat
  | .known i => i.rowNumber
  | .unknown _ => 36

/-- The bits of a word that its row does not ignore: all but `n` in families 5 and 9, and all but `y` in SHR and SHL
(30_encoding.md R72, R76). -/
def Instr.usedBits : Instr → Word
  | .seReg _ _ | .sneReg _ _ => 0xFFF0#16
  | .shr _ | .shl _ => 0xFF0F#16
  | .cls | .ret | .sys _ | .jp _ | .call _ | .seImm _ _ | .sneImm _ _ | .ldImm _ _ | .addImm _ _ => 0xFFFF#16
  | .ldReg _ _ | .orReg _ _ | .andReg _ _ | .xorReg _ _ | .addReg _ _ | .subReg _ _ | .subnReg _ _ => 0xFFFF#16
  | .ldI _ | .jpV0 _ | .rnd _ _ | .drw _ _ _ | .skp _ | .sknp _ | .ldVxDt _ | .ldVxK _ | .ldDtVx _ => 0xFFFF#16
  | .ldStVx _ | .addI _ | .ldF _ | .ldB _ | .ldMemVx _ | .ldVxMem _ => 0xFFFF#16

/-- The match of an instruction's row (30_encoding.md R73). -/
def Instr.rowMatch (i : Instr) : Word :=
  ((opcodeRows.find? fun r => r.number == i.rowNumber).map TableRow.matchBits).getD 0

/-- The mask of an instruction's row (30_encoding.md R73). -/
def Instr.rowMask (i : Instr) : Word :=
  ((opcodeRows.find? fun r => r.number == i.rowNumber).map TableRow.maskBits).getD 0

/-- The word whose bits below `nbits` are those of `w` and whose other bits are 0. -/
def tableWord (nbits w : Nat) : Word := BitVec.ofNat 16 (w % 2 ^ nbits)

/-- What the decoder reads from the opcode table's bits `w`: the word is laid out as memory holds it, high byte
first, and given to `decodeBytes`. `none` for an UNKNOWN word. -/
def decodeTableWord (nbits w : Nat) : Option Instr :=
  let word := tableWord nbits w
  match (decodeBytes (highByte word) (lowByte word)).uop with
  | .known i => some i
  | .unknown _ => none

end Sys2Proof
end

