-- ==== Sys2Proof/Config.lean ====
section
/-!
DEFINITION. The parameters of the hardware (00_scope.md R6), the host's transactions (60_exceptions.md R214),
and what the spec leaves open: the unit of elapsed time and the host's own choice of its next transaction.
-/

namespace Sys2Proof

/-- The sprite edge policy, `SPRITE_EDGE` (00_scope.md R6, 44_display.md R174). -/
inductive SpriteEdge where
  | wrap
  | clip
  deriving DecidableEq, Repr

/-- One transaction of the host with its operands (60_exceptions.md R214). -/
inductive HostCall where
  /-- `construct(rom)`: build a fresh core (70_reset_and_hazards.md R230). -/
  | construct (rom : List Byte)
  /-- `cpu_step(keys, rnd)`: one instruction cycle (40_cycle.md R100). -/
  | cpuStep (keys : Word) (rnd : Byte)
  /-- `timer_step(elapsed)`: timer decay (60_exceptions.md R211). -/
  | timerStep (elapsed : Nat)
  deriving DecidableEq, Repr, Inhabited

namespace Config

/-- `MEM_SIZE` (00_scope.md R6). -/
@[simp] abbrev memSize : Nat := 4096

/-- The last address of memory (20_memory.md R50). -/
@[simp] abbrev memTop : Nat := 0xFFF

/-- `PROG_BASE` (00_scope.md R6). -/
@[simp] abbrev progBase : Nat := 0x200

/-- `PROG_MAX`, the longest ROM (00_scope.md R6, 60_exceptions.md R209). -/
@[simp] abbrev progMax : Nat := 0x1000 - 0x200

/-- `FONT_BASE` (00_scope.md R6). -/
@[simp] abbrev fontBase : Nat := 0x000

/-- `FONT_GLYPH_BYTES` (00_scope.md R6). -/
@[simp] abbrev fontGlyphBytes : Nat := 5

/-- `DISPLAY_W` (00_scope.md R6). -/
@[simp] abbrev displayW : Nat := 64

/-- `DISPLAY_H` (00_scope.md R6). -/
@[simp] abbrev displayH : Nat := 32

/-- `TIMER_HZ` (00_scope.md R6). -/
@[simp] abbrev timerHz : Nat := 60

/-- `FETCH_LO`, the lowest pc a fetch accepts (00_scope.md R6, decision D1). -/
@[simp] abbrev fetchLo : Nat := 0x200

/-- `FETCH_HI`, the highest pc a fetch accepts (00_scope.md R6, decision D1). -/
@[simp] abbrev fetchHi : Nat := 0xFFE

/-- `STACK_DEPTH` (00_scope.md R6). -/
@[simp] abbrev stackDepth : Nat := 16

/-- `SPRITE_EDGE`: wrap is the normative setting (00_scope.md R6, 44_display.md R174; log 13). -/
def spriteEdge : SpriteEdge := .wrap

/-- One less than `TIMER_UNITS_PER_SECOND`. No body: the spec leaves the unit OPEN (decision D14; log 3). -/
opaque timerUnitsLessOne : Nat

/-- `TIMER_UNITS_PER_SECOND`: a positive natural and nothing more (00_scope.md R6; log 3). -/
def timerUnitsPerSecond : Nat := timerUnitsLessOne + 1

/-- The host's `n`-th transaction where the state lists none. No body: the host chooses freely which
transaction it issues and with which operands (60_exceptions.md R212, R219; log 1). -/
opaque hostCall (n : Nat) : HostCall

end Config

end Sys2Proof
end

