-- ==== Sys2Proof/Machine/State.lean ====
section
/-!
DEFINITION. The state of the machine (10_state.md R20 to R43), its stops, and the state after reset
(70_reset_and_hazards.md R232). Plain data throughout.
-/

namespace Sys2Proof.Machine

/-- The machine has no fault that stops a step: the spec describes the entry of each of its faults
(60_exceptions.md R203), so taking one is a next state, with the fault record written and `run_state` Halted
(log 9). Nothing raises a value of this type. -/
inductive Fault where
  deriving DecidableEq, Repr

/-- The two ways a step can be refused. -/
inductive Refusal where
  /-- Raised by `exec` for an instruction that has no meaning yet; no arm raises it now. Safe: the run stops. -/
  | notModelled (mnemonic : String)
  /-- `CapacityExceeded(len(rom))`: raised by the transaction `construct` with a ROM longer than 3584 bytes; no core
  exists afterwards (60_exceptions.md R209, 93_implementation_defined.md U18; log 10). Safe: the run stops. -/
  | capacityExceeded (romLength : Nat)
  deriving DecidableEq, Repr

/-- The three fatal errors (60_exceptions.md R201, R202). -/
inductive FaultKind where
  | stackOverflow
  | stackUnderflow
  | outOfBounds
  deriving DecidableEq, Repr

/-- The fault record's triple (10_state.md R39): `kind`, `pc_at` and the 17-bit `addr`. -/
structure FaultRecord where
  kind : FaultKind
  pcAt : Word
  addr : BitVec 17
  deriving DecidableEq, Repr

/-- `run_state` (10_state.md R37). -/
inductive RunState where
  | running
  | awaitingKey (r : Nibble)
  | halted
  deriving DecidableEq, Repr

/-- Memory: the bytes that differ from what an unlisted address reads as, by rising address
(10_state.md R33; the canonical form is `Memory.wf` in Machine/Memory.lean). -/
abbrev Memory := List Host.Cell

/-- The display buffer: 32 rows of 64 pixels, `display[Y*64 + X]` being bit X of row Y (10_state.md R34). -/
abbrev Screen := Vector (BitVec 64) 32

/-- Everything the spec gives the machine (10_state.md R43), and the three fields of the model's own at the end. -/
structure State where
  /-- `V[0]`..`V[15]`; `VF` is `V[15]` (10_state.md R20, R21). -/
  v : Vector Byte 16
  /-- The index register `I` (10_state.md R23). -/
  i : Word
  /-- The program counter (10_state.md R25). -/
  pc : Word
  /-- `SP`, the number of live stack entries, 0 to 16 (10_state.md R28; log 8). -/
  sp : Fin 17
  /-- The return-address stack (10_state.md R28). -/
  stack : Vector Word 16
  /-- The delay timer `DT` (10_state.md R31). -/
  dt : Byte
  /-- The sound timer `ST` (10_state.md R31). -/
  st : Byte
  /-- `timer_acc` (10_state.md R32). -/
  timerAcc : Nat
  /-- `mem[0x000..0xFFF]` (10_state.md R33). -/
  mem : Memory
  /-- `display[0..2047]` (10_state.md R34). -/
  display : Screen
  /-- The Input Latch `key_latch` (10_state.md R35). -/
  keyLatch : Word
  /-- `prev_latch` (10_state.md R36). -/
  prevLatch : Word
  /-- `run_state` (10_state.md R37). -/
  runState : RunState
  /-- The fault record (10_state.md R39). -/
  fault : Option FaultRecord
  /-- `unknown_count` (10_state.md R40). -/
  unknownCount : BitVec 32
  /-- The model's own: the `rnd` operand of the current `cpu_step` (00_scope.md R10; log 2). -/
  rnd : Byte
  /-- The model's own: the host calls already chosen, the next one first (log 1). -/
  pending : List HostCall
  /-- The model's own: how many host calls have been made (log 1). -/
  hostCalls : Nat
  deriving DecidableEq, Repr

/-- What a step answers: a next state, a fault or a refusal. -/
abbrev Result := Host.Outcome State Fault Refusal

/-- The state after `construct` with an empty ROM (70_reset_and_hazards.md R232), memory with nothing listed. -/
def State.reset : State where
  v := Vector.replicate 16 0
  i := 0x0000
  pc := 0x0200
  sp := 0
  stack := Vector.replicate 16 0
  dt := 0
  st := 0
  timerAcc := 0
  mem := []
  display := Vector.replicate 32 0
  keyLatch := 0x0000
  prevLatch := 0x0000
  runState := .running
  fault := none
  unknownCount := 0
  rnd := 0
  pending := []
  hostCalls := 0

end Sys2Proof.Machine
end

