-- ==== Sys2Proof/Machine/Memory.lean ====
section
/-!
DEFINITION. The one address space (20_memory.md R50 to R60): what an unlisted address reads as, reading and writing
one byte, writing a run of bytes, the image of a loaded ROM, and the canonical form of the list.
-/

namespace Sys2Proof.Machine

/-- `FONT`, glyphs 0 to 7 (70_reset_and_hazards.md R233). -/
def fontLow : List Byte :=
  [0xF0, 0x90, 0x90, 0x90, 0xF0, 0x20, 0x60, 0x20, 0x20, 0x70,
   0xF0, 0x10, 0xF0, 0x80, 0xF0, 0xF0, 0x10, 0xF0, 0x10, 0xF0,
   0x90, 0x90, 0xF0, 0x10, 0x10, 0xF0, 0x80, 0xF0, 0x10, 0xF0,
   0xF0, 0x80, 0xF0, 0x90, 0xF0, 0xF0, 0x10, 0x20, 0x40, 0x40]

/-- `FONT`, glyphs 8 to F (70_reset_and_hazards.md R233). -/
def fontHigh : List Byte :=
  [0xF0, 0x90, 0xF0, 0x90, 0xF0, 0xF0, 0x90, 0xF0, 0x10, 0xF0,
   0xF0, 0x90, 0xF0, 0x90, 0x90, 0xE0, 0x90, 0xE0, 0x90, 0xE0,
   0xF0, 0x80, 0x80, 0x80, 0xF0, 0xE0, 0x90, 0x90, 0x90, 0xE0,
   0xF0, 0x80, 0xF0, 0x80, 0xF0, 0xF0, 0x80, 0xF0, 0x80, 0x80]

/-- `FONT[0..79]` (70_reset_and_hazards.md R233). -/
def font : List Byte := fontLow ++ fontHigh

/-- What an unlisted address reads as: the reset contents without a program, that is the font at `FONT_BASE` and 0
elsewhere (70_reset_and_hazards.md R232). -/
def Memory.unlisted (a : Nat) : Byte :=
  if a < Config.fontBase then 0 else font.getD (a - Config.fontBase) 0

/-- `MemRead(a, 1)` (00_scope.md R9). -/
def Memory.read (m : Memory) (a : Nat) : Byte :=
  match m with
  | [] => Memory.unlisted a
  | (b, w) :: rest => if a = b then w else Memory.read rest a

/-- The listing of one byte: nothing where the byte is what an unlisted address reads as. -/
def Memory.cell (a : Nat) (w : Byte) : Memory :=
  if w = Memory.unlisted a then [] else [(a, w)]

/-- `MemWrite(a, 1, w)` (00_scope.md R9), keeping the canonical form. -/
def Memory.write (m : Memory) (a : Nat) (w : Byte) : Memory :=
  match m with
  | [] => Memory.cell a w
  | (b, u) :: rest =>
    if a < b then Memory.cell a w ++ (b, u) :: rest
    else if a = b then Memory.cell a w ++ rest
    else (b, u) :: Memory.write rest a w

/-- A run of byte writes in ascending address order from `a` (20_memory.md R53). -/
def Memory.writeBytes (m : Memory) (a : Nat) (bytes : List Byte) : Memory :=
  match bytes with
  | [] => m
  | w :: rest => Memory.writeBytes (Memory.write m a w) (a + 1) rest

/-- The listing of `bytes` from address `a` up, all else at its unlisted value: a ROM image
(70_reset_and_hazards.md R231, "verbatim into Memory"). -/
def Memory.image (a : Nat) (bytes : List Byte) : Memory :=
  match bytes with
  | [] => []
  | w :: rest => Memory.cell a w ++ Memory.image (a + 1) rest

/-- The addresses of a memory list rise strictly, all at or above `lo`. -/
def Memory.risesFrom (lo : Nat) (m : Memory) : Bool :=
  match m with
  | [] => true
  | (a, _) :: rest => decide (lo ≤ a) && Memory.risesFrom (a + 1) rest

/-- The canonical form: addresses strictly rising and inside the space 0x000..0xFFF (20_memory.md R50), and no entry
equal to what an unlisted address reads as. -/
def Memory.wf (m : Memory) : Bool :=
  Memory.risesFrom 0 m && m.all fun c => decide (c.1 ≤ Config.memTop) && decide (c.2 ≠ Memory.unlisted c.1)

end Sys2Proof.Machine
end

