-- ==== Sys2Proof/Machine/Ops.lean ====
section
/-!
DEFINITION. The named operations over the registers, one definition for each thing an instruction or a transaction
does to the state, and the one shared operation that takes a fault. There is no return from a fault
(60_exceptions.md R204).
-/

namespace Sys2Proof.Machine

/-- `V[r]` (00_scope.md R8). -/
def State.reg (s : State) (r : Nibble) : Byte := s.v[r.toNat]'r.isLt

/-- `V[r] <- b` (00_scope.md R8). -/
def State.setReg (s : State) (r : Nibble) (b : Byte) : State := { s with v := s.v.set r.toNat b r.isLt }

/-- `I <- a` (10_state.md R23). -/
def State.setIndex (s : State) (a : Word) : State := { s with i := a }

/-- `pc <- target` (00_scope.md R8). -/
def State.setPc (s : State) (target : Word) : State := { s with pc := target }

/-- The generic advance `pc <- pc + 2` (40_cycle.md R105; log 7). -/
def State.advance (s : State) : State := s.setPc (s.pc + 2)

/-- The skip class: `pc + 4` where the condition holds, else `pc + 2` (41_control_flow.md R120). -/
def State.skipIf (s : State) (cond : Bool) : State := s.setPc (s.pc + if cond then 4 else 2)

/-- The top of the stack, `stack[SP - 1]` (10_state.md R28). -/
def State.stackTop (s : State) : Word := s.stack[s.sp.val - 1]'(by omega)

/-- `stack[SP] <- a; SP <- SP + 1`, for an `SP` below 16 (41_control_flow.md R124). -/
def State.pushReturn (s : State) (a : Word) : State :=
  { s with stack := s.stack.setIfInBounds s.sp.val a, sp := Fin.ofNat 17 (s.sp.val + 1) }

/-- `SP <- SP - 1`, for an `SP` above 0; the popped entry stays (41_control_flow.md R122, 10_state.md R29). -/
def State.popReturn (s : State) : State := { s with sp := Fin.ofNat 17 (s.sp.val - 1) }

/-- `DT <- b` (45_timers_keys.md R181). -/
def State.setDelay (s : State) (b : Byte) : State := { s with dt := b }

/-- `ST <- b` (45_timers_keys.md R182). -/
def State.setSound (s : State) (b : Byte) : State := { s with st := b }

/-- The three elements `timer_step` writes (60_exceptions.md R211). -/
def State.setTimers (s : State) (acc : Nat) (dt st : Byte) : State := { s with timerAcc := acc, dt := dt, st := st }

/-- Memory after an instruction's writes. -/
def State.setMem (s : State) (m : Memory) : State := { s with mem := m }

/-- The display after an instruction's writes (10_state.md R34). -/
def State.setDisplay (s : State) (d : Screen) : State := { s with display := d }

/-- The start of a `cpu_step`: `prev_latch <- key_latch; key_latch <- keys` (40_cycle.md R100), and the `rnd`
operand put where the instruction reads it (00_scope.md R10; log 2). -/
def State.latchInputs (s : State) (keys : Word) (rnd : Byte) : State :=
  { s with prevLatch := s.keyLatch, keyLatch := keys, rnd := rnd }

/-- `run_state <- r` (10_state.md R37). -/
def State.setRunState (s : State) (r : RunState) : State := { s with runState := r }

/-- `unknown_count <- min(unknown_count + 1, 0xFFFFFFFF)` (40_cycle.md R107). -/
def State.countUnknown (s : State) : State :=
  { s with unknownCount := BitVec.ofNat 32 (min (s.unknownCount.toNat + 1) 0xFFFFFFFF) }

/-- `raise Fault(kind, addr)`: the record is written with the current pc, the core halts, and nothing else changes
(60_exceptions.md R203, 00_scope.md R10). -/
def State.raise (s : State) (kind : FaultKind) (addr : Nat) : State :=
  { s with fault := some { kind := kind, pcAt := s.pc, addr := BitVec.ofNat 17 addr }, runState := .halted }

/-- The host's next transaction: the first one listed, or a free one where none is listed (log 1). -/
def State.nextCall (s : State) : HostCall :=
  match s.pending with
  | [] => Config.hostCall s.hostCalls
  | c :: _ => c

/-- The host has made its next call (log 1). -/
def State.tookCall (s : State) : State := { s with pending := s.pending.tail, hostCalls := s.hostCalls + 1 }

end Sys2Proof.Machine
end

