-- ==== Sys2Proof/Machine/Flags.lean ====
section
/-!
DEFINITION. The only flag, `VF`: every value the spec computes for it (10_state.md R30) and the order in which a
result and a flag are written (42_alu.md R140).
-/

namespace Sys2Proof.Machine

/-- The register index of `VF` (10_state.md R21). -/
def vf : Nibble := 0xF#4

/-- The byte a flag writes: 1 or 0 (10_state.md R30). -/
def flagByte (flag : Bool) : Byte := if flag then 1 else 0

/-- The carry of an 8-bit addition: the sum exceeds 255 (42_alu.md R147). -/
def carry (a b : Byte) : Bool := decide (255 < a.toNat + b.toNat)

/-- The NOT-borrow of `a - b`: `a >= b` (42_alu.md R148, R150). -/
def notBorrow (a b : Byte) : Bool := decide (b.toNat ≤ a.toNat)

/-- The bit SHR shifts out: bit 0 (42_alu.md R149). -/
def shiftedOutLow (a : Byte) : Bool := a.getLsbD 0

/-- The bit SHL shifts out: bit 7 (42_alu.md R151). -/
def shiftedOutHigh (a : Byte) : Bool := a.getLsbD 7

/-- `trunc_8(a + b)` (42_alu.md R142, R147). -/
def addBytes (a b : Byte) : Byte := BitVec.ofNat 8 (a.toNat + b.toNat)

/-- `trunc_8(a + 256 - b)` (42_alu.md R148, R150). -/
def subBytes (a b : Byte) : Byte := BitVec.ofNat 8 (a.toNat + 256 - b.toNat)

/-- `V[x] <- result`, then `VF <- flag`: the flag wins where x is F (42_alu.md R140, decision D4). -/
def State.setResultFlag (s : State) (x : Nibble) (result : Byte) (flag : Bool) : State :=
  (s.setReg x result).setReg vf (flagByte flag)

end Sys2Proof.Machine
end

