-- ==== Sys2Proof/Machine/Alu.lean ====
section
/-!
DEFINITION. The ALU (42_alu.md R140 to R153): loads, arithmetic, logic, shifts, RND. Every one takes the generic
advance and none can fault.
-/

namespace Sys2Proof.Machine

/-- LD Vx,byte (42_alu.md R141). -/
def execLdImm (x : Nibble) (nn : Byte) (s : State) : Result := .next (s.setReg x nn).advance

/-- ADD Vx,byte, with no flag (42_alu.md R142). -/
def execAddImm (x : Nibble) (nn : Byte) (s : State) : Result := .next (s.setReg x (addBytes (s.reg x) nn)).advance

/-- LD Vx,Vy (42_alu.md R143). -/
def execLdReg (x y : Nibble) (s : State) : Result := .next (s.setReg x (s.reg y)).advance

/-- OR Vx,Vy; VF is not reset (42_alu.md R144). -/
def execOrReg (x y : Nibble) (s : State) : Result := .next (s.setReg x (s.reg x ||| s.reg y)).advance

/-- AND Vx,Vy (42_alu.md R145). -/
def execAndReg (x y : Nibble) (s : State) : Result := .next (s.setReg x (s.reg x &&& s.reg y)).advance

/-- XOR Vx,Vy (42_alu.md R146). -/
def execXorReg (x y : Nibble) (s : State) : Result := .next (s.setReg x (s.reg x ^^^ s.reg y)).advance

/-- ADD Vx,Vy, VF the carry (42_alu.md R147). -/
def execAddReg (x y : Nibble) (s : State) : Result :=
  .next (s.setResultFlag x (addBytes (s.reg x) (s.reg y)) (carry (s.reg x) (s.reg y))).advance

/-- SUB Vx,Vy, VF the NOT-borrow (42_alu.md R148). -/
def execSubReg (x y : Nibble) (s : State) : Result :=
  .next (s.setResultFlag x (subBytes (s.reg x) (s.reg y)) (notBorrow (s.reg x) (s.reg y))).advance

/-- SHR Vx, of Vx itself, VF the bit shifted out (42_alu.md R149). -/
def execShr (x : Nibble) (s : State) : Result :=
  .next (s.setResultFlag x (s.reg x >>> 1) (shiftedOutLow (s.reg x))).advance

/-- SUBN Vx,Vy, VF the NOT-borrow of `Vy - Vx` (42_alu.md R150). -/
def execSubnReg (x y : Nibble) (s : State) : Result :=
  .next (s.setResultFlag x (subBytes (s.reg y) (s.reg x)) (notBorrow (s.reg y) (s.reg x))).advance

/-- SHL Vx, of Vx itself, VF the bit shifted out (42_alu.md R151). -/
def execShl (x : Nibble) (s : State) : Result :=
  .next (s.setResultFlag x (s.reg x <<< 1) (shiftedOutHigh (s.reg x))).advance

/-- RND Vx,byte: the entropy operand of this `cpu_step`, masked (42_alu.md R152). -/
def execRnd (x : Nibble) (nn : Byte) (s : State) : Result := .next (s.setReg x (s.rnd &&& nn)).advance

end Sys2Proof.Machine
end

