-- ==== Sys2Proof/Machine/Operands.lean ====
section
/-!
DEFINITION. How operands are formed (30_encoding.md R80): effective addresses and their bounds check
(20_memory.md R54 to R56), the register block, key and glyph indices, the digits of a byte.
-/

namespace Sys2Proof.Machine

/-- `EA(k) = zext(I & 0xFFF) + k`, on naturals with no wrap (20_memory.md R54). -/
def State.ea (s : State) (k : Nat) : Nat := (s.i &&& 0xFFF#16).toNat + k

/-- The lowest of the addresses `EA(0)`..`EA(count-1)` above 0xFFF, if any (20_memory.md R55, R56). -/
def State.firstOutOfRange (s : State) (count : Nat) : Option Nat :=
  ((List.range count).map s.ea).find? fun a => decide (Config.memTop < a)

/-- An instruction that touches the `count` bytes from `EA(0)` up: its effect `t` if all of them exist, else
OutOfBounds at the lowest that does not, with nothing written (20_memory.md R56). -/
def State.guardAddresses (s : State) (count : Nat) (t : State) : State :=
  match s.firstOutOfRange count with
  | some a => s.raise .outOfBounds a
  | none => t

/-- The `count` bytes of memory from `EA(0)` up (20_memory.md R53). -/
def State.bytesAtIndex (s : State) (count : Nat) : List Byte :=
  (List.range count).map fun k => s.mem.read (s.ea k)

/-- The block `V[0]`..`V[x]` (10_state.md R22). -/
def State.regBlock (s : State) (x : Nibble) : List Byte :=
  (List.range (x.toNat + 1)).map fun k => s.reg (BitVec.ofNat 4 k)

/-- `V[k] <- bytes[k]` for every k of the list, ascending (43_index_memory.md R165). -/
def State.loadRegs (s : State) (k : Nat) (bytes : List Byte) : State :=
  match bytes with
  | [] => s
  | b :: rest => (s.setReg (BitVec.ofNat 4 k) b).loadRegs (k + 1) rest

/-- The key a register names: its low nibble (41_control_flow.md R130). -/
def keyIndex (b : Byte) : Nat := (b &&& 0x0F#8).toNat

/-- Is the key that `V[x]` names pressed in `key_latch` (41_control_flow.md R130). -/
def State.keyDown (s : State) (x : Nibble) : Bool := s.keyLatch.getLsbD (keyIndex (s.reg x))

/-- `FONT_BASE + zext_16(b & 0xF) * 5` (43_index_memory.md R162). -/
def glyphAddress (b : Byte) : Word :=
  BitVec.ofNat 16 (Config.fontBase + (b &&& 0x0F#8).toNat * Config.fontGlyphBytes)

/-- The hundreds, tens and ones of a byte (43_index_memory.md R163). -/
def bcdDigits (b : Byte) : List Byte :=
  [BitVec.ofNat 8 (b.toNat / 100), BitVec.ofNat 8 (b.toNat / 10 % 10), BitVec.ofNat 8 (b.toNat % 10)]

end Sys2Proof.Machine
end

