-- ==== Sys2Proof/Machine/ControlFlow.lean ====
section
/-!
DEFINITION. Control flow (41_control_flow.md R120 to R131): SYS, RET, JP, CALL, the skips, JP V0.
-/

namespace Sys2Proof.Machine

/-- RET (41_control_flow.md R122). -/
def execRet (s : State) : Result :=
  if s.sp.val = 0 then .next (s.raise .stackUnderflow s.pc.toNat)
  else .next ((s.setPc s.stackTop).popReturn)

/-- SYS addr: a no-op, `nnn` ignored (41_control_flow.md R121). -/
def execSys (_nnn : Addr) (s : State) : Result := .next s.advance

/-- JP addr (41_control_flow.md R123). -/
def execJp (nnn : Addr) (s : State) : Result := .next (s.setPc (nnn.setWidth 16))

/-- CALL addr: the return address `pc + 2` is pushed (41_control_flow.md R124, decision D3). -/
def execCall (nnn : Addr) (s : State) : Result :=
  if s.sp.val = Config.stackDepth then .next (s.raise .stackOverflow s.pc.toNat)
  else .next ((s.pushReturn (s.pc + 2)).setPc (nnn.setWidth 16))

/-- SE Vx,byte (41_control_flow.md R125). -/
def execSeImm (x : Nibble) (nn : Byte) (s : State) : Result := .next (s.skipIf (s.reg x == nn))

/-- SNE Vx,byte (41_control_flow.md R126). -/
def execSneImm (x : Nibble) (nn : Byte) (s : State) : Result := .next (s.skipIf (s.reg x != nn))

/-- SE Vx,Vy (41_control_flow.md R127). -/
def execSeReg (x y : Nibble) (s : State) : Result := .next (s.skipIf (s.reg x == s.reg y))

/-- SNE Vx,Vy (41_control_flow.md R128). -/
def execSneReg (x y : Nibble) (s : State) : Result := .next (s.skipIf (s.reg x != s.reg y))

/-- JP V0,addr: 16-bit sum, not masked (41_control_flow.md R129). -/
def execJpV0 (nnn : Addr) (s : State) : Result :=
  .next (s.setPc (nnn.setWidth 16 + (s.reg 0x0#4).setWidth 16))

/-- SKP Vx (41_control_flow.md R130). -/
def execSkp (x : Nibble) (s : State) : Result := .next (s.skipIf (s.keyDown x))

/-- SKNP Vx (41_control_flow.md R131). -/
def execSknp (x : Nibble) (s : State) : Result := .next (s.skipIf (!s.keyDown x))

end Sys2Proof.Machine
end

