-- ==== Sys2Proof/Machine/Display.lean ====
section
/-!
DEFINITION. The display (44_display.md R170 to R174): clear, and the XOR sprite draw with collision.
-/

namespace Sys2Proof.Machine

/-- Cell `j` of the display, `display[j]` (10_state.md R34). -/
def Screen.cell (d : Screen) (j : Nat) : Bool := (d[j / 64]?.getD 0).getLsbD (j % 64)

/-- `display[j] <- display[j] ^ 1` (44_display.md R172). -/
def Screen.flip (d : Screen) (j : Nat) : Screen :=
  d.setIfInBounds (j / 64) (d[j / 64]?.getD 0 ^^^ (1#64 <<< (j % 64)))

/-- A display with every cell 0 (44_display.md R171). -/
def Screen.clear : Screen := Vector.replicate 32 0

/-- The index of cell (X, Y), row-major (10_state.md R34). -/
def cellIndex (x y : Nat) : Nat := y * Config.displayW + x

/-- The pixel (X, Y) of the display (10_state.md R34). -/
def State.pixel (s : State) (x y : Nat) : Bool := s.display.cell (cellIndex x y)

/-- Column `c` of a sprite row is bit `7 - c` (44_display.md R170, decision D5). -/
def spriteBit (row : Byte) (c : Nat) : Bool := row.getLsbD (7 - c)

/-- The cell of row `r`, column `c` of a sprite at `(x0, y0)`: under wrap every pixel wraps on both axes; under clip
the origin wraps and a pixel past an edge has no cell (44_display.md R170, R174; log 13). -/
def spriteCell (edge : SpriteEdge) (x0 y0 r c : Nat) : Option Nat :=
  match edge with
  | .wrap => some (cellIndex ((x0 + c) % Config.displayW) ((y0 + r) % Config.displayH))
  | .clip =>
    let x := x0 % Config.displayW + c
    let y := y0 % Config.displayH + r
    if x < Config.displayW ∧ y < Config.displayH then some (cellIndex x y) else none

/-- The cells of one sprite row's set bits, left to right (44_display.md R172). -/
def rowCells (edge : SpriteEdge) (x0 y0 r : Nat) (row : Byte) : List Nat :=
  ((List.range 8).filter (spriteBit row)).filterMap (spriteCell edge x0 y0 r)

/-- The cells a sprite touches, row by row from row `r` (44_display.md R172). -/
def spriteCells (edge : SpriteEdge) (x0 y0 r : Nat) (rows : List Byte) : List Nat :=
  match rows with
  | [] => []
  | row :: rest => rowCells edge x0 y0 r row ++ spriteCells edge x0 y0 (r + 1) rest

/-- A draw in progress: the display and whether a pixel that was on has been hit (44_display.md R172). -/
structure Canvas where
  display : Screen
  hit : Bool
  deriving DecidableEq, Repr

/-- One set sprite bit: note a hit, then flip the cell (44_display.md R172). -/
def Canvas.plot (k : Canvas) (cell : Nat) : Canvas :=
  { display := k.display.flip cell, hit := k.hit || k.display.cell cell }

/-- The cells plotted one after another onto a display with no hit noted yet (44_display.md R172). -/
def drawCells (d : Screen) (cells : List Nat) : Canvas := cells.foldl Canvas.plot { display := d, hit := false }

/-- CLS (44_display.md R171). -/
def execCls (s : State) : Result := .next (s.setDisplay Screen.clear).advance

/-- DRW Vx,Vy,n: the coordinates are read before VF is written (44_display.md R172). -/
def execDrw (x y n : Nibble) (s : State) : Result :=
  let cells := spriteCells Config.spriteEdge (s.reg x).toNat (s.reg y).toNat 0 (s.bytesAtIndex n.toNat)
  let drawn := drawCells s.display cells
  .next (s.guardAddresses n.toNat ((s.setDisplay drawn.display).setReg vf (flagByte drawn.hit)).advance)

end Sys2Proof.Machine
end

