-- ==== Sys2Proof/Machine/IndexMemory.lean ====
section
/-!
DEFINITION. The index register and the memory transfers (43_index_memory.md R160 to R165).
-/

namespace Sys2Proof.Machine

/-- LD I,addr (43_index_memory.md R160). -/
def execLdI (nnn : Addr) (s : State) : Result := .next (s.setIndex (nnn.setWidth 16)).advance

/-- ADD I,Vx, modulo 0x1000, with no flag (43_index_memory.md R161). -/
def execAddI (x : Nibble) (s : State) : Result :=
  .next (s.setIndex (BitVec.ofNat 16 ((s.i.toNat + (s.reg x).toNat) % 0x1000))).advance

/-- LD F,Vx (43_index_memory.md R162). -/
def execLdF (x : Nibble) (s : State) : Result := .next (s.setIndex (glyphAddress (s.reg x))).advance

/-- LD B,Vx: the three decimal digits from `EA(0)` up (43_index_memory.md R163). -/
def execLdB (x : Nibble) (s : State) : Result :=
  .next (s.guardAddresses 3 (s.setMem (s.mem.writeBytes (s.ea 0) (bcdDigits (s.reg x)))).advance)

/-- LD [I],Vx: V0..Vx from `EA(0)` up, I unchanged (43_index_memory.md R164). -/
def execLdMemVx (x : Nibble) (s : State) : Result :=
  .next (s.guardAddresses (x.toNat + 1) (s.setMem (s.mem.writeBytes (s.ea 0) (s.regBlock x))).advance)

/-- LD Vx,[I]: V0..Vx from `EA(0)` up, I unchanged (43_index_memory.md R165). -/
def execLdVxMem (x : Nibble) (s : State) : Result :=
  .next (s.guardAddresses (x.toNat + 1) (s.loadRegs 0 (s.bytesAtIndex (x.toNat + 1))).advance)

end Sys2Proof.Machine
end

