-- ==== Sys2Proof/Machine/TimersKeys.lean ====
section
/-!
DEFINITION. The timer registers, the key wait (45_timers_keys.md R180 to R186) and the transaction `timer_step`
(60_exceptions.md R210 to R212).
-/

namespace Sys2Proof.Machine

/-- LD Vx,DT (45_timers_keys.md R180). -/
def execLdVxDt (x : Nibble) (s : State) : Result := .next (s.setReg x s.dt).advance

/-- LD Vx,K, the cycle that enters the wait: no edge is tested and pc stays (45_timers_keys.md R184). -/
def execLdVxK (x : Nibble) (s : State) : Result := .next (s.setRunState (.awaitingKey x))

/-- LD DT,Vx (45_timers_keys.md R181). -/
def execLdDtVx (x : Nibble) (s : State) : Result := .next (s.setDelay (s.reg x)).advance

/-- LD ST,Vx (45_timers_keys.md R182). -/
def execLdStVx (x : Nibble) (s : State) : Result := .next (s.setSound (s.reg x)).advance

/-- The keys that went from 0 to 1 since the previous `cpu_step` (45_timers_keys.md R185). -/
def State.keyEdges (s : State) : Word := s.keyLatch &&& ~~~s.prevLatch

/-- The lowest index whose bit is set (45_timers_keys.md R186, decision D11). -/
def lowestBit (w : Word) : Option Nat := (List.range 16).find? w.getLsbD

/-- `wait_step(r)`: a `cpu_step` taken while waiting, after the latches are updated (45_timers_keys.md R185). -/
def State.waitStep (s : State) (r : Nibble) : State :=
  match lowestBit s.keyEdges with
  | none => s
  | some k => ((s.setReg r (BitVec.ofNat 8 k)).advance).setRunState .running

/-- A timer after `k` whole ticks, clamped at 0 (60_exceptions.md R211). -/
def tickDown (t : Byte) (k : Nat) : Byte := if k < t.toNat then BitVec.ofNat 8 (t.toNat - k) else 0

/-- `timer_step(elapsed)` with `units` of elapsed time to the second (60_exceptions.md R211); nothing in Halted. -/
def State.timerStep (units elapsed : Nat) (s : State) : State :=
  match s.runState with
  | .halted => s
  | .running | .awaitingKey _ =>
    let total := s.timerAcc + Config.timerHz * elapsed
    let k := total / units
    s.setTimers (total % units) (tickDown s.dt k) (tickDown s.st k)

end Sys2Proof.Machine
end

