-- ==== Sys2Proof/Machine/Cycle.lean ====
section
/-!
DEFINITION. The execution cycle (40_cycle.md R100 to R109): fetch, dispatch, UNKNOWN, `cpu_step`; `construct`
(70_reset_and_hazards.md R230 to R232); the host's transactions; and the output ports (60_exceptions.md R213, R214).
-/

namespace Sys2Proof.Machine

/-- The lowest of `pc`, `pc + 1` outside `[FETCH_LO, 0xFFF]`, for a pc outside the fetch window; `none` for one
inside it (40_cycle.md R101, decision D1). -/
def fetchViolation (pc : Word) : Option Nat :=
  if pc.toNat < Config.fetchLo ∨ Config.fetchHi < pc.toNat then
    [pc.toNat, pc.toNat + 1].find? fun a => decide (a < Config.fetchLo ∨ Config.memTop < a)
  else none

/-- The word at `pc`, big-endian (20_memory.md R52). -/
def State.fetchWord (s : State) : Word := wordOfBytes (s.mem.read s.pc.toNat) (s.mem.read (s.pc.toNat + 1))

/-- UNKNOWN: counted, and the generic advance (40_cycle.md R107). -/
def execUnknown (s : State) : Result := .next s.countUnknown.advance

/-- `execute(u, rnd)` (40_cycle.md R103). -/
def execute (u : MicroOp) (s : State) : Result :=
  match u with
  | .known i => exec i s
  | .unknown _ => execUnknown s

/-- A Running cycle after the latches are updated: fetch, decode, execute (40_cycle.md R100). -/
def fetchExecute (s : State) : Result :=
  match fetchViolation s.pc with
  | some a => .next (s.raise .outOfBounds a)
  | none => execute (decode s.fetchWord).uop s

/-- `cpu_step(keys, rnd)` (40_cycle.md R100): nothing in Halted (R108); no fetch in AwaitingKey (R109). -/
def cpuStep (keys : Word) (rnd : Byte) (s : State) : Result :=
  match s.runState with
  | .halted => .next s
  | .awaitingKey r => .next ((s.latchInputs keys rnd).waitStep r)
  | .running => fetchExecute (s.latchInputs keys rnd)

/-- `construct(rom)`: a fresh core with the ROM at 0x200, or CapacityExceeded and no core
(70_reset_and_hazards.md R230 to R232, 60_exceptions.md R209). The host's own side, its further calls, goes on
(log 12). -/
def construct (rom : List Byte) (s : State) : Result :=
  if Config.progMax < rom.length then .refused (.capacityExceeded rom.length)
  else .next { State.reset with
    mem := Memory.image Config.progBase rom, pending := s.pending, hostCalls := s.hostCalls }

/-- One transaction of the host (60_exceptions.md R214). -/
def hostStep (c : HostCall) (s : State) : Result :=
  match c with
  | .construct rom => construct rom s
  | .cpuStep keys rnd => cpuStep keys rnd s
  | .timerStep elapsed => .next (s.timerStep Config.timerUnitsPerSecond elapsed)

/-- An answer to the host: `cpu_step` gives one of the three (40_cycle.md R100, decision D22), `timer_step` only the
third (R108; log 18). -/
inductive CpuResult where
  | ok
  | waiting
  | halted (fault : Option FaultRecord)
  deriving DecidableEq, Repr

/-- The answer of the `cpu_step` that left this state: Waiting whenever `run_state` is AwaitingKey, Halted with the
record in Halted, else Ok (40_cycle.md R100). -/
def State.cpuResult (s : State) : CpuResult :=
  match s.runState with
  | .running => .ok
  | .awaitingKey _ => .waiting
  | .halted => .halted s.fault

/-- The answer of the `timer_step` that left this state: Halted with the record in Halted (40_cycle.md R108,
60_exceptions.md R204), none otherwise (R214, R219). DESIGN CHOICE: that the answer in Halted is the one R108 and R204
give, where R211, R214 and R219 give `timer_step` none (log 18). -/
def State.timerResult (s : State) : Option CpuResult :=
  match s.runState with
  | .halted => some (.halted s.fault)
  | .running | .awaitingKey _ => none

/-- `sound_active = (ST != 0)` (60_exceptions.md R213). -/
def State.soundActive (s : State) : Bool := s.st != 0

/-- The numeric code of a fatal error (60_exceptions.md R201). -/
def faultCode (k : FaultKind) : Nat :=
  match k with
  | .stackOverflow => 1
  | .stackUnderflow => 2
  | .outOfBounds => 3

/-- The code of the recoverable UnknownInstruction, which no record holds (60_exceptions.md R201, R202). -/
def unknownInstructionCode : Nat := 4

/-- The code of CapacityExceeded, which `construct` returns (60_exceptions.md R201, R202). -/
def capacityExceededCode : Nat := 5

/-- The `fault` port: none, or (code, pc, addr) (60_exceptions.md R214). -/
def State.faultPort (s : State) : Option (Nat × Word × BitVec 17) :=
  s.fault.map fun f => (faultCode f.kind, f.pcAt, f.addr)

/-- The idle state: Running with a jump to itself at pc (40_cycle.md R110 (c)). DESIGN CHOICE: a pc outside the fetch
window is not idle, whatever bytes stand there. R110 (c) names no window, and there the next `cpu_step` faults (R101)
where R110 has it change the latches only (log 17). -/
def State.idle (s : State) : Bool :=
  s.runState == .running && fetchViolation s.pc == none && s.fetchWord == (0x1000#16 ||| s.pc)

end Sys2Proof.Machine
end

