-- ==== Sys2Proof/Machine/Step.lean ====
section
/-!
DEFINITION. One step of the machine is one transaction of the host (00_scope.md R2, 60_exceptions.md R214).
-/

namespace Sys2Proof.Machine

/-- The host makes its next call, and the core carries it out (log 1). -/
def step (s : State) : Host.Outcome State Fault Refusal := hostStep s.nextCall s.tookCall

/-- A pc whose word can be fetched: the pc itself where it is in the fetch window, else the reset entry point. -/
def fetchablePc (pc : Word) : Word :=
  match fetchViolation pc with
  | none => pc
  | some _ => BitVec.ofNat 16 Config.progBase

/-- `s` with the instruction of the opcode table's bits `w` where the next step fetches it: its two bytes at pc, high
byte first, `run_state` Running, pc inside the fetch window, and a `cpu_step` as the host's next call with the keys
and the entropy byte as they stand (log 4). -/
def State.withFetchWord (s : State) (nbits w : Nat) : State :=
  let word := tableWord nbits w
  let pc := fetchablePc s.pc
  { s with
    pc := pc
    runState := .running
    mem := s.mem.writeBytes pc.toNat [highByte word, lowByte word]
    pending := .cpuStep s.keyLatch s.rnd :: s.pending }

end Sys2Proof.Machine
end

