-- ==== Sys2Proof/Safety.lean ====
section
/-!
DEFINITION. The terms claims are stated in: which parts of the state two states share (the frames), what an
instruction of one shape writes, the states a run can be in, and which cells a sprite covers.
-/

namespace Sys2Proof.Machine

/-- Every general register reads the same. -/
def SameRegs (s t : State) : Prop := ∀ r, t.reg r = s.reg r

/-- Every general register but `d` reads the same. -/
def SameRegsBut (d : Nibble) (s t : State) : Prop := ∀ r, r ≠ d → t.reg r = s.reg r

/-- The stack and its pointer are the same. -/
def SameStack (s t : State) : Prop := t.sp = s.sp ∧ t.stack = s.stack

/-- Both timers and the accumulator are the same. -/
def SameTimers (s t : State) : Prop := t.dt = s.dt ∧ t.st = s.st ∧ t.timerAcc = s.timerAcc

/-- Every byte of memory reads the same. -/
def SameMemory (s t : State) : Prop := ∀ a, t.mem.read a = s.mem.read a

/-- `run_state`, the fault record and `unknown_count` are the same. -/
def SameStatus (s t : State) : Prop :=
  t.runState = s.runState ∧ t.fault = s.fault ∧ t.unknownCount = s.unknownCount

/-- The latches, the entropy operand and the host's calls are the same. -/
def SameInputs (s t : State) : Prop :=
  t.keyLatch = s.keyLatch ∧ t.prevLatch = s.prevLatch ∧ t.rnd = s.rnd ∧ t.pending = s.pending ∧
    t.hostCalls = s.hostCalls

/-- All but the general registers, I, the pc and the display is the same. -/
def SameDevices (s t : State) : Prop :=
  SameStack s t ∧ SameTimers s t ∧ SameMemory s t ∧ SameStatus s t ∧ SameInputs s t

/-- All but the general registers and the pc is the same. -/
def SameBeyondRegs (s t : State) : Prop := t.i = s.i ∧ t.display = s.display ∧ SameDevices s t

/-- All but the pc is the same. -/
def SameBeyondPc (s t : State) : Prop := SameRegs s t ∧ SameBeyondRegs s t

/-- An instruction whose whole effect is `V[x] <- b` and the generic advance. -/
def WritesReg (x : Nibble) (b : Byte) (s t : State) : Prop :=
  t.reg x = b ∧ SameRegsBut x s t ∧ t.pc = s.pc + 2 ∧ SameBeyondRegs s t

/-- An instruction whose whole effect is a result in `V[x]`, then a flag in VF, which wins where x is F, and the
generic advance; result and flag are given as naturals (42_alu.md R140). -/
def WritesResultFlag (x : Nibble) (result flag : Nat) (s t : State) : Prop :=
  (x ≠ 0xF#4 → (t.reg x).toNat = result) ∧ (t.reg 0xF#4).toNat = flag ∧
    (∀ r, r ≠ x → r ≠ 0xF#4 → t.reg r = s.reg r) ∧ t.pc = s.pc + 2 ∧ SameBeyondRegs s t

/-- An instruction whose whole effect is a value in I, given as a natural, and the generic advance. -/
def WritesIndex (a : Nat) (s t : State) : Prop :=
  t.i.toNat = a ∧ SameRegs s t ∧ t.pc = s.pc + 2 ∧ t.display = s.display ∧ SameDevices s t

/-- An instruction whose whole effect is a pc. -/
def WritesPc (pc : Word) (s t : State) : Prop := t.pc = pc ∧ SameBeyondPc s t

/-- An instruction that stores `bytes` from `EA(0)` up and takes the generic advance: the bytes stored, every other
byte of memory, and everything else as before. -/
def StoresAtIndex (bytes : List Byte) (s t : State) : Prop :=
  (∀ k (h : k < bytes.length), t.mem.read (s.ea 0 + k) = bytes[k]) ∧
    (∀ a, a < s.ea 0 ∨ s.ea 0 + bytes.length ≤ a → t.mem.read a = s.mem.read a) ∧
    t.pc = s.pc + 2 ∧ SameRegs s t ∧ t.i = s.i ∧ t.display = s.display ∧ SameStack s t ∧ SameTimers s t ∧
    SameStatus s t ∧ SameInputs s t

/-- The state a fault leaves: the record and Halted, everything else as it was (60_exceptions.md R203). -/
def haltedWith (s : State) (kind : FaultKind) (addr : BitVec 17) : State :=
  { s with fault := some { kind := kind, pcAt := s.pc, addr := addr }, runState := .halted }

/-- The state a `cpu_step` of the host starts its work from: the call taken off the host's list, and the latches and
the entropy operand written (40_cycle.md R100; log 1, log 2). -/
def latchedFor (s : State) (keys : Word) (b : Byte) : State :=
  { s with
    prevLatch := s.keyLatch, keyLatch := keys, rnd := b,
    pending := s.pending.tail, hostCalls := s.hostCalls + 1 }

/-- A row `r` and column `c` of the sprite at I has its bit set and lands on the cell (X, Y), both axes wrapping
(44_display.md R170). -/
def spriteCovers (s : State) (x y n : Nibble) (cx cy : Nat) : Prop :=
  ∃ r c : Nat, r < n.toNat ∧ c < 8 ∧ (s.mem.read (s.ea r)).toNat / 2 ^ (7 - c) % 2 = 1 ∧
    cx = ((s.reg x).toNat + c) % 64 ∧ cy = ((s.reg y).toNat + r) % 32

/-- The states a run can be in. -/
structure State.Inv (s : State) : Prop where
  /-- Memory is in its canonical form, inside the address space (20_memory.md R50). -/
  memWf : s.mem.wf = true
  /-- 10_state.md R24. -/
  indexLe : s.i.toNat ≤ 0xFFF
  /-- 10_state.md R27. -/
  pcLe : s.pc.toNat ≤ 0x10FE
  /-- 10_state.md R32. -/
  accLt : s.timerAcc < Config.timerUnitsPerSecond
  /-- Every live entry is the address after a CALL (10_state.md R28). -/
  liveEntries : ∀ k (h : k < 16), k < s.sp.val → 0x202 ≤ s.stack[k].toNat ∧ s.stack[k].toNat ≤ 0x1000
  /-- While the core waits, pc points at the Fx0A word (45_timers_keys.md R184). -/
  waitPc : ∀ r, s.runState = .awaitingKey r → 0x200 ≤ s.pc.toNat ∧ s.pc.toNat ≤ 0xFFE
  /-- The record is written exactly when the core halts (60_exceptions.md R203, R204). -/
  haltedIff : s.runState = .halted ↔ s.fault.isSome = true
  /-- pc still holds the address of the fault (60_exceptions.md R203). -/
  faultPc : ∀ f, s.fault = some f → f.pcAt = s.pc

end Sys2Proof.Machine
end

