-- ==== Sys2Proof/Certificates/Slice0/Obligations.lean ====
section
/-!
DEFINITION. The statements for the provers. Each docstring names the rule of spec/ a statement formalises; where a
clause rests on a point the spec marks as its own decision or derivation, or on a choice of this model, the docstring
says so.
-/

open Sys2Proof Sys2Proof.Machine

/-! ## Encoding -/

/-- The operand bits of an instruction's word, the fields shifted into place (30_encoding.md R83). -/
def operandBits : Instr → Word
  | .cls | .ret => 0
  | .sys nnn | .jp nnn | .call nnn | .ldI nnn | .jpV0 nnn => nnn.setWidth 16
  | .seImm x nn | .sneImm x nn | .ldImm x nn | .addImm x nn | .rnd x nn => x.setWidth 16 <<< 8 ||| nn.setWidth 16
  | .seReg x y | .sneReg x y | .ldReg x y | .orReg x y | .andReg x y | .xorReg x y | .addReg x y | .subReg x y
  | .subnReg x y => x.setWidth 16 <<< 8 ||| y.setWidth 16 <<< 4
  | .drw x y n => x.setWidth 16 <<< 8 ||| y.setWidth 16 <<< 4 ||| n.setWidth 16
  | .shr x | .shl x | .skp x | .sknp x | .ldVxDt x | .ldVxK x | .ldDtVx x | .ldStVx x | .addI x | .ldF x | .ldB x
  | .ldMemVx x | .ldVxMem x => x.setWidth 16 <<< 8

/-- `decode(encode(m)) = m` for every mnemonic whose operands fit (30_encoding.md R83, which the spec marks derived). -/
def Obligations.DecodeEncodeRoundTrip : Prop :=
  ∀ i : Instr, i.wellFormed = true → (decode (encode i)).uop = .known i

/-- `word = match | (x << 8) | (y << 4) | n` and so on, ignored bits 0 (30_encoding.md R83, which the spec marks
derived). -/
def Obligations.EncodeIsMatchWithOperands : Prop :=
  ∀ i : Instr, encode i = i.rowMatch ||| operandBits i

/-- The decoder's case analysis (30_encoding.md R74) picks the first row of the opcode map with
`word & mask == match`, and row 36, UNKNOWN, where none has (R73). -/
def Obligations.DecodePicksFirstRow : Prop :=
  ∀ w : Word, (decode w).uop.rowNumber = firstRow w

/-- A decoded instruction is well formed and encodes back to the word but for the bits its row ignores
(30_encoding.md R72, R75, R76; the spec marks R75 its own decision). -/
def Obligations.EncodeDecodeKeepsUsedBits : Prop :=
  ∀ (w : Word) (i : Instr), (decode w).uop = .known i → i.wellFormed = true ∧ encode i = w &&& i.usedBits

/-- Exactly these words are UNKNOWN: family 8 outside its nine selectors, family E outside 9E and A1, family F outside
its nine selectors (30_encoding.md R77, R78; family 0 never is, R75). -/
def Obligations.UnknownWordsAreThese : Prop :=
  ∀ w : Word, (decode w).uop = .unknown w ↔
    (w.toNat / 0x1000 = 0x8 ∧ w.toNat % 0x10 ∈ [0x8, 0x9, 0xA, 0xB, 0xC, 0xD, 0xF]) ∨
      (w.toNat / 0x1000 = 0xE ∧ w.toNat % 0x100 ∉ [0x9E, 0xA1]) ∨
      (w.toNat / 0x1000 = 0xF ∧
        w.toNat % 0x100 ∉ [0x07, 0x0A, 0x15, 0x18, 0x1E, 0x29, 0x33, 0x55, 0x65])

/-- 9808 of the 65536 words are UNKNOWN (30_encoding.md R79, which the spec marks derived). -/
def Obligations.UnknownWordCount : Prop :=
  ((List.range 65536).filter fun w => (decode (BitVec.ofNat 16 w)).uop.rowNumber == 36).length = 9808

/-- Words written out from the spec's encodings and decoder vectors, one or more of each family
(30_encoding.md R73; 95_test_vectors.md section 2.1). -/
def Obligations.SpecWordsDecode : Prop :=
  (decode 0x00E0#16).uop = .known .cls ∧ (decode 0x00EE#16).uop = .known .ret ∧
    (decode 0x01E0#16).uop = .known (.sys 0x1E0#12) ∧ (decode 0x1ABC#16).uop = .known (.jp 0xABC#12) ∧
    (decode 0x512F#16).uop = .known (.seReg 1#4 2#4) ∧ (decode 0x600A#16).uop = .known (.ldImm 0#4 0x0A#8) ∧
    (decode 0x8AB6#16).uop = .known (.shr 0xA#4) ∧ (decode 0x8AB8#16).uop = .unknown 0x8AB8#16 ∧
    (decode 0xA200#16).uop = .known (.ldI 0x200#12) ∧ (decode 0xDAB0#16).uop = .known (.drw 0xA#4 0xB#4 0#4) ∧
    (decode 0xE39E#16).uop = .known (.skp 3#4) ∧ (decode 0xF055#16).uop = .known (.ldMemVx 0#4) ∧
    (decode 0xF40A#16).uop = .known (.ldVxK 4#4)

/-- The decoder extracts every field from every word with the source's masks (30_encoding.md R71; the spec marks the
output record its decision D23). -/
def Obligations.DecoderExtractsFields : Prop :=
  ∀ w : Word, (decode w).x.toNat = (w.toNat &&& 0x0F00) >>> 8 ∧ (decode w).y.toNat = (w.toNat &&& 0x00F0) >>> 4 ∧
    (decode w).n.toNat = w.toNat &&& 0x000F ∧ (decode w).nn.toNat = w.toNat &&& 0x00FF ∧
    (decode w).nnn.toNat = w.toNat &&& 0x0FFF ∧ (decode w).word = w

/-! ## The cycle -/

/-- A fetch reads the word big-endian, and `0x60 0x0A` at pc is the word 0x600A (20_memory.md R52). -/
def Obligations.FetchIsBigEndian : Prop :=
  ∀ s : State, s.fetchWord.toNat = (s.mem.read s.pc.toNat).toNat * 256 + (s.mem.read (s.pc.toNat + 1)).toNat ∧
    (s.mem.read s.pc.toNat = 0x60 → s.mem.read (s.pc.toNat + 1) = 0x0A → s.fetchWord = 0x600A)

/-- A `cpu_step` of a running core whose pc is in the fetch window runs the instruction its two bytes decode to, on
the state with the host's operands latched; an odd pc is no exception (40_cycle.md R100, R101, R103; the fetch window
is the spec's decision D1; the host's calls are log 1, the entropy operand's place is log 2). -/
def Obligations.StepRunsDecoded : Prop :=
  ∀ (s : State) (keys : Word) (b : Byte) (i : Instr),
    s.nextCall = .cpuStep keys b → s.runState = .running → 0x200 ≤ s.pc.toNat → s.pc.toNat ≤ 0xFFE →
    (decodeBytes (s.mem.read s.pc.toNat) (s.mem.read (s.pc.toNat + 1))).uop = .known i →
    step s = exec i (latchedFor s keys b)

/-- An UNKNOWN word is counted, saturating, and skipped over, and nothing else changes (40_cycle.md R107, the spec's
decision D10). -/
def Obligations.StepCountsUnknown : Prop :=
  ∀ (s : State) (keys : Word) (b : Byte) (w : Word),
    s.nextCall = .cpuStep keys b → s.runState = .running → 0x200 ≤ s.pc.toNat → s.pc.toNat ≤ 0xFFE →
    (decodeBytes (s.mem.read s.pc.toNat) (s.mem.read (s.pc.toNat + 1))).uop = .unknown w →
    ∃ t, step s = .next t ∧ t.unknownCount.toNat = min (s.unknownCount.toNat + 1) 0xFFFFFFFF ∧
      t = { latchedFor s keys b with pc := s.pc + 2, unknownCount := t.unknownCount }

/-- A fetch outside [0x200, 0xFFE] halts the core with OutOfBounds at the lowest of pc, pc+1 outside [0x200, 0xFFF];
only the latches are written besides (40_cycle.md R101, 60_exceptions.md R203; the window is the spec's decision D1). -/
def Obligations.FetchOutsideWindowHalts : Prop :=
  ∀ (s : State) (keys : Word) (b : Byte),
    s.nextCall = .cpuStep keys b → s.runState = .running → s.pc.toNat < 0x200 ∨ 0xFFE < s.pc.toNat →
    step s = .next (haltedWith (latchedFor s keys b) .outOfBounds
      (if s.pc = 0xFFF#16 then 0x1000#17 else s.pc.setWidth 17))

/-- Every `cpu_step` of a core that is not halted answers, and moves the key latch into the previous latch and the
`keys` operand into the key latch, whatever it runs; the timer accumulator and the host's calls are not its to change
(40_cycle.md R100, 10_state.md R35, R36; the place of the previous latch is the spec's decision D12). -/
def Obligations.CpuStepLatchesKeys : Prop :=
  ∀ (s : State) (keys : Word) (b : Byte), s.runState ≠ .halted →
    ∃ t, cpuStep keys b s = .next t ∧ t.prevLatch = s.keyLatch ∧ t.keyLatch = keys ∧ t.rnd = b ∧
      t.timerAcc = s.timerAcc ∧ t.pending = s.pending ∧ t.hostCalls = s.hostCalls

/-- In Halted, `cpu_step` and `timer_step` change nothing and both answer Halted with the record (40_cycle.md R108,
60_exceptions.md R204, the spec's decisions D9, D22; that `timer_step` has an answer is the model's choice between rules
that differ, log 18). -/
def Obligations.HaltedIgnoresCalls : Prop :=
  ∀ (s : State) (keys : Word) (b : Byte) (elapsed : Nat), s.runState = .halted →
    hostStep (.cpuStep keys b) s = .next s ∧ s.cpuResult = .halted s.fault ∧
      hostStep (.timerStep elapsed) s = .next s ∧ s.timerResult = some (.halted s.fault)

/-- A step answers a next state whatever the state and the host's call, but for a ROM that does not fit
(60_exceptions.md R202, R205, R209). -/
def Obligations.StepAlwaysAnswers : Prop :=
  ∀ s : State, (∀ rom, s.nextCall = .construct rom → rom.length ≤ 3584) → ∃ t, step s = .next t

/-- From the idle state a `cpu_step` changes the two latches only, with the model's record of the host's operands
(40_cycle.md R110 (c), the spec's decision D19; log 1, log 2). A pc outside the fetch window is not idle by the model's
choice (log 17). -/
def Obligations.IdleStaysIdle : Prop :=
  ∀ (s : State) (keys : Word) (b : Byte), s.idle = true → s.nextCall = .cpuStep keys b →
    step s = .next (latchedFor s keys b) ∧ (latchedFor s keys b).idle = true

/-! ## The state of a run -/

/-- Every step keeps the invariant: canonical memory, I within 12 bits, pc at most 0x10FE, the accumulator below its
bound, return addresses in the live stack, a fetchable pc in the wait, a fault record exactly in Halted
(20_memory.md R50; 10_state.md R24, R27, R28, R32, R37, R39; 60_exceptions.md R203, R204; several are marked derived
or decided by the spec). -/
def Obligations.StepKeepsInv : Prop :=
  ∀ s t : State, s.Inv → step s = .next t → t.Inv

/-- The state after reset meets the invariant (70_reset_and_hazards.md R232). -/
def Obligations.ResetMeetsInv : Prop := State.reset.Inv

/-- The font, one row a glyph (70_reset_and_hazards.md R233). -/
def fontRows : List (List Byte) :=
  [[0xF0, 0x90, 0x90, 0x90, 0xF0], [0x20, 0x60, 0x20, 0x20, 0x70], [0xF0, 0x10, 0xF0, 0x80, 0xF0],
   [0xF0, 0x10, 0xF0, 0x10, 0xF0], [0x90, 0x90, 0xF0, 0x10, 0x10], [0xF0, 0x80, 0xF0, 0x10, 0xF0],
   [0xF0, 0x80, 0xF0, 0x90, 0xF0], [0xF0, 0x10, 0x20, 0x40, 0x40], [0xF0, 0x90, 0xF0, 0x90, 0xF0],
   [0xF0, 0x90, 0xF0, 0x10, 0xF0], [0xF0, 0x90, 0xF0, 0x90, 0x90], [0xE0, 0x90, 0xE0, 0x90, 0xE0],
   [0xF0, 0x80, 0x80, 0x80, 0xF0], [0xE0, 0x90, 0x90, 0x90, 0xE0], [0xF0, 0x80, 0xF0, 0x80, 0xF0],
   [0xF0, 0x80, 0xF0, 0x80, 0x80]]

/-- The state after reset: pc at 0x200, Running, every other element zero, the font at 0x000 and the rest of memory
zero (70_reset_and_hazards.md R232, R233; the spec marks pc, the timers, the display and the latches its decisions D12
to D14 and the font bytes D24). The three fields of the model's own (log 1, log 2) are not stated. -/
def Obligations.ResetIsSpecs : Prop :=
  (∀ r, State.reset.reg r = 0) ∧ State.reset.i = 0 ∧ State.reset.pc = 0x200 ∧ State.reset.sp = 0 ∧
    (∀ k (h : k < 16), State.reset.stack[k] = 0) ∧ State.reset.dt = 0 ∧ State.reset.st = 0 ∧
    State.reset.timerAcc = 0 ∧ (∀ cx cy, cx < 64 → cy < 32 → State.reset.pixel cx cy = false) ∧ State.reset.keyLatch = 0 ∧ State.reset.prevLatch = 0 ∧
    State.reset.runState = .running ∧ State.reset.fault = none ∧ State.reset.unknownCount = 0 ∧
    (∀ a, a < 80 → State.reset.mem.read a = (fontRows.getD (a / 5) []).getD (a % 5) 0) ∧
    (∀ a, 80 ≤ a → State.reset.mem.read a = 0)

/-- `construct` copies a ROM of up to 3584 bytes to 0x200 verbatim over the reset state, and a longer one leaves no
core (70_reset_and_hazards.md R231, 60_exceptions.md R209; that the host's own calls go on is the model's, log 12). -/
def Obligations.ConstructLoadsRom : Prop :=
  ∀ (rom : List Byte) (s : State),
    (rom.length ≤ 3584 → ∃ t, construct rom s = .next t ∧
      (∀ k (h : k < rom.length), t.mem.read (0x200 + k) = rom[k]) ∧
      (∀ a, a < 0x200 ∨ 0x200 + rom.length ≤ a → t.mem.read a = State.reset.mem.read a) ∧
      { t with mem := [] } = { State.reset with pending := s.pending, hostCalls := s.hostCalls }) ∧
    (3584 < rom.length → construct rom s = .refused (.capacityExceeded rom.length))

/-! ## Faults and who writes what, over all instructions -/

/-- An instruction that halts the core has written the record with its own pc and nothing else
(60_exceptions.md R203, the spec's decision D8). -/
def Obligations.FaultsArePrecise : Prop :=
  ∀ (i : Instr) (s : State), s.runState ≠ .halted → ∃ t, exec i s = .next t ∧
    (t.runState = .halted → ∃ kind addr, t = haltedWith s kind addr)

/-- Only these instructions halt the core, each for one cause: RET on an empty stack, CALL on a full one, and a memory
access past 0xFFF, reported at 0x1000 (60_exceptions.md R201, R205; 20_memory.md R56; decisions D2, D8). -/
def Obligations.FaultCausesAreThese : Prop :=
  ∀ (i : Instr) (s t : State), s.runState ≠ .halted → exec i s = .next t → t.runState = .halted →
    (i = .ret ∧ s.sp.val = 0 ∧ t = haltedWith s .stackUnderflow (s.pc.setWidth 17)) ∨
      ((∃ nnn, i = .call nnn) ∧ s.sp.val = 16 ∧ t = haltedWith s .stackOverflow (s.pc.setWidth 17)) ∨
      (((∃ x y n : Nibble, i = .drw x y n ∧ 0xFFF < s.ea 0 + n.toNat - 1 ∧ n ≠ 0) ∨
          (∃ x : Nibble, i = .ldB x ∧ 0xFFF < s.ea 2) ∨
          (∃ x : Nibble, (i = .ldMemVx x ∨ i = .ldVxMem x) ∧ 0xFFF < s.ea x.toNat)) ∧
        t = haltedWith s .outOfBounds 0x1000#17)

/-- Only CALL writes a stack entry, and only CALL and RET move SP (10_state.md R28, R29; R29 is decision D17). -/
def Obligations.StackWritersAreThese : Prop :=
  ∀ (i : Instr) (s t : State), exec i s = .next t →
    (t.stack ≠ s.stack → ∃ nnn, i = .call nnn) ∧ (t.sp ≠ s.sp → i = .ret ∨ ∃ nnn, i = .call nnn)

/-- Only LD DT,Vx and LD ST,Vx of all instructions write a timer, and no instruction writes the accumulator
(45_timers_keys.md R183, 10_state.md R31, R32). -/
def Obligations.TimerWritersAreThese : Prop :=
  ∀ (i : Instr) (s t : State), exec i s = .next t →
    (t.dt ≠ s.dt → ∃ x, i = .ldDtVx x) ∧ (t.st ≠ s.st → ∃ x, i = .ldStVx x) ∧ t.timerAcc = s.timerAcc

/-- Only CLS and DRW write the display (10_state.md R34), and only LD B and LD [I],Vx write memory (20_memory.md R50). -/
def Obligations.DisplayAndMemoryWritersAreThese : Prop :=
  ∀ (i : Instr) (s t : State), exec i s = .next t →
    (t.display ≠ s.display → i = .cls ∨ ∃ x y n, i = .drw x y n) ∧
      (∀ a, t.mem.read a ≠ s.mem.read a → ∃ x, i = .ldB x ∨ i = .ldMemVx x)

/-- Only LD I, ADD I and LD F write I, and what they write is at most 0xFFF (10_state.md R23, R24). -/
def Obligations.IndexWritersAreThese : Prop :=
  ∀ (i : Instr) (s t : State), exec i s = .next t → t.i ≠ s.i →
    ((∃ nnn, i = .ldI nnn) ∨ ∃ x, i = .addI x ∨ i = .ldF x) ∧ t.i.toNat ≤ 0xFFF

/-- VF changes only under the six flag writers or an instruction that names it as its destination, among them a block
load of all sixteen registers (10_state.md R22, R30). -/
def Obligations.FlagWritersAreThese : Prop :=
  ∀ (i : Instr) (s t : State), exec i s = .next t → t.reg 0xF#4 ≠ s.reg 0xF#4 →
    (∃ x y, i = .addReg x y ∨ i = .subReg x y ∨ i = .subnReg x y) ∨ (∃ x, i = .shr x ∨ i = .shl x) ∨
      (∃ x y n, i = .drw x y n) ∨ (∃ nn, i = .ldImm 0xF#4 nn ∨ i = .addImm 0xF#4 nn ∨ i = .rnd 0xF#4 nn) ∨
      (∃ y, i = .ldReg 0xF#4 y ∨ i = .orReg 0xF#4 y ∨ i = .andReg 0xF#4 y ∨ i = .xorReg 0xF#4 y) ∨
      i = .ldVxDt 0xF#4 ∨ i = .ldVxMem 0xF#4

/-- No instruction writes the latches, the diagnostic counter, the entropy operand or the host's calls
(10_state.md R35, R36, R40, R42). -/
def Obligations.InstructionsLeaveHostElements : Prop :=
  ∀ (i : Instr) (s : State), ∃ t, exec i s = .next t ∧ SameInputs s t ∧ t.unknownCount = s.unknownCount

/-! ## Control flow -/

/-- SYS is a no-op that is not counted (41_control_flow.md R121, the spec's decision D6). -/
def Obligations.SysOnlyAdvances : Prop :=
  ∀ (nnn : Addr) (s : State), ∃ t, exec (.sys nnn) s = .next t ∧ WritesPc (s.pc + 2) s t

/-- JP jumps to nnn and JP V0 to nnn + V0, unmasked and without wrap; neither checks its target
(41_control_flow.md R123, R129; where the target is checked is decisions D1, D21). -/
def Obligations.JumpsSetPc : Prop :=
  ∀ (nnn : Addr) (s : State),
    (∃ t, exec (.jp nnn) s = .next t ∧ t.pc.toNat = nnn.toNat ∧ SameBeyondPc s t) ∧
      (∃ t, exec (.jpV0 nnn) s = .next t ∧ t.pc.toNat = nnn.toNat + (s.reg 0#4).toNat ∧ SameBeyondPc s t)

/-- CALL with a free entry pushes the address after itself and jumps (41_control_flow.md R124; that it is pc + 2 is the
spec's decision D3). -/
def Obligations.CallPushesReturn : Prop :=
  ∀ (nnn : Addr) (s : State) (h : s.sp.val < 16), ∃ t, exec (.call nnn) s = .next t ∧
    t.stack[s.sp.val] = s.pc + 2 ∧ (∀ k (hk : k < 16), k ≠ s.sp.val → t.stack[k] = s.stack[k]) ∧
    t.sp.val = s.sp.val + 1 ∧ t.pc.toNat = nnn.toNat ∧ SameRegs s t ∧ t.i = s.i ∧ t.display = s.display ∧
    SameTimers s t ∧ SameMemory s t ∧ SameStatus s t ∧ SameInputs s t

/-- RET with a live entry returns to the top one and leaves it in place (41_control_flow.md R122; that it is left is
the spec's decision D17). -/
def Obligations.RetPopsReturn : Prop :=
  ∀ (s : State) (h : 0 < s.sp.val), ∃ t, exec .ret s = .next t ∧
    t.pc = s.stack[s.sp.val - 1]'(by omega) ∧ t.sp.val = s.sp.val - 1 ∧ t.stack = s.stack ∧ SameRegs s t ∧
    t.i = s.i ∧ t.display = s.display ∧ SameTimers s t ∧ SameMemory s t ∧ SameStatus s t ∧ SameInputs s t

/-- A CALL on a full stack and a RET on an empty one halt the core with nothing else changed, and the fault port shows
codes 1 and 2 with the pc as the address (41_control_flow.md R122, R124; 60_exceptions.md R201; the codes are the
spec's decision D8). -/
def Obligations.StackFaultsHalt : Prop :=
  ∀ (nnn : Addr) (s : State),
    (s.sp.val = 16 → ∃ t, exec (.call nnn) s = .next t ∧ t = haltedWith s .stackOverflow (s.pc.setWidth 17) ∧
      t.faultPort = some (1, s.pc, s.pc.setWidth 17)) ∧
    (s.sp.val = 0 → ∃ t, exec .ret s = .next t ∧ t = haltedWith s .stackUnderflow (s.pc.setWidth 17) ∧
      t.faultPort = some (2, s.pc, s.pc.setWidth 17))

/-- A RET from wherever the called code has got to, with SP and the stack as the CALL left them, continues after the
CALL (90_conflicts.md C1, the spec's decision D3). -/
def Obligations.RetFollowsCall : Prop :=
  ∀ (nnn : Addr) (s t u : State), s.sp.val < 16 → exec (.call nnn) s = .next t → SameStack t u →
    ∃ w, exec .ret u = .next w ∧ w.pc = s.pc + 2 ∧ w.sp = s.sp

/-- SE and SNE with an immediate: pc + 4 where the condition holds, else pc + 2, and nothing else
(41_control_flow.md R125, R126). -/
def Obligations.ImmediateSkips : Prop :=
  ∀ (x : Nibble) (nn : Byte) (s : State),
    ((decode (0x3#4 ++ x ++ nn)).uop = .known (.seImm x nn) ∧ ∃ t, exec (.seImm x nn) s = .next t ∧
      WritesPc (if s.reg x = nn then s.pc + 4 else s.pc + 2) s t) ∧
    ((decode (0x4#4 ++ x ++ nn)).uop = .known (.sneImm x nn) ∧ ∃ t, exec (.sneImm x nn) s = .next t ∧
      WritesPc (if s.reg x ≠ nn then s.pc + 4 else s.pc + 2) s t)

/-- SE and SNE of two registers, whatever the low nibble of the word (41_control_flow.md R127, R128). -/
def Obligations.RegisterSkips : Prop :=
  ∀ (x y n : Nibble) (s : State),
    ((decode (0x5#4 ++ x ++ y ++ n)).uop = .known (.seReg x y) ∧ ∃ t, exec (.seReg x y) s = .next t ∧
      WritesPc (if s.reg x = s.reg y then s.pc + 4 else s.pc + 2) s t) ∧
    ((decode (0x9#4 ++ x ++ y ++ n)).uop = .known (.sneReg x y) ∧ ∃ t, exec (.sneReg x y) s = .next t ∧
      WritesPc (if s.reg x ≠ s.reg y then s.pc + 4 else s.pc + 2) s t)

/-- SKP and SKNP test the level of the key that the low nibble of V[x] names (41_control_flow.md R130, R131). -/
def Obligations.KeySkips : Prop :=
  ∀ (x : Nibble) (s : State),
    ((decode (0xE#4 ++ x ++ 0x9E#8)).uop = .known (.skp x) ∧ ∃ t, exec (.skp x) s = .next t ∧
      WritesPc (if s.keyLatch.getLsbD ((s.reg x).toNat % 16) = true then s.pc + 4 else s.pc + 2) s t) ∧
    ((decode (0xE#4 ++ x ++ 0xA1#8)).uop = .known (.sknp x) ∧ ∃ t, exec (.sknp x) s = .next t ∧
      WritesPc (if s.keyLatch.getLsbD ((s.reg x).toNat % 16) = false then s.pc + 4 else s.pc + 2) s t)

/-! ## ALU -/

/-- The loads and the logic write V[x] and nothing else; VF only where x is F (42_alu.md R141, R143 to R146). -/
def Obligations.LoadsAndLogicWriteVx : Prop :=
  ∀ (x y : Nibble) (nn : Byte) (s : State),
    ((decode (0x6#4 ++ x ++ nn)).uop = .known (.ldImm x nn) ∧
      ∃ t, exec (.ldImm x nn) s = .next t ∧ WritesReg x nn s t) ∧
    ((decode (0x8#4 ++ x ++ y ++ 0x0#4)).uop = .known (.ldReg x y) ∧
      ∃ t, exec (.ldReg x y) s = .next t ∧ WritesReg x (s.reg y) s t) ∧
    ((decode (0x8#4 ++ x ++ y ++ 0x1#4)).uop = .known (.orReg x y) ∧
      ∃ t, exec (.orReg x y) s = .next t ∧ WritesReg x (s.reg x ||| s.reg y) s t) ∧
    ((decode (0x8#4 ++ x ++ y ++ 0x2#4)).uop = .known (.andReg x y) ∧
      ∃ t, exec (.andReg x y) s = .next t ∧ WritesReg x (s.reg x &&& s.reg y) s t) ∧
    ((decode (0x8#4 ++ x ++ y ++ 0x3#4)).uop = .known (.xorReg x y) ∧
      ∃ t, exec (.xorReg x y) s = .next t ∧ WritesReg x (s.reg x ^^^ s.reg y) s t)

/-- ADD Vx,byte wraps modulo 256 and writes no flag (42_alu.md R142). -/
def Obligations.AddImmediateWraps : Prop :=
  ∀ (x : Nibble) (nn : Byte) (s : State),
    (decode (0x7#4 ++ x ++ nn)).uop = .known (.addImm x nn) ∧
      ∃ t, exec (.addImm x nn) s = .next t ∧ (t.reg x).toNat = ((s.reg x).toNat + nn.toNat) % 256 ∧
        WritesReg x (t.reg x) s t

/-- ADD Vx,Vy: the sum modulo 256, then the carry in VF, both from the registers as they were (42_alu.md R147; that the
flag is written last is the spec's decision D4, R140). -/
def Obligations.AddSetsCarry : Prop :=
  ∀ (x y : Nibble) (s : State), ∃ t, exec (.addReg x y) s = .next t ∧
    WritesResultFlag x (((s.reg x).toNat + (s.reg y).toNat) % 256)
      (if 255 < (s.reg x).toNat + (s.reg y).toNat then 1 else 0) s t

/-- SUB and SUBN: the difference modulo 256, then the NOT-borrow in VF (42_alu.md R148, R150; the flag last is decision
D4, R140). -/
def Obligations.SubtractionsSetNotBorrow : Prop :=
  ∀ (x y : Nibble) (s : State),
    (∃ t, exec (.subReg x y) s = .next t ∧
      WritesResultFlag x (((s.reg x).toNat + 256 - (s.reg y).toNat) % 256)
        (if (s.reg x).toNat ≥ (s.reg y).toNat then 1 else 0) s t) ∧
    (∃ t, exec (.subnReg x y) s = .next t ∧
      WritesResultFlag x (((s.reg y).toNat + 256 - (s.reg x).toNat) % 256)
        (if (s.reg y).toNat ≥ (s.reg x).toNat then 1 else 0) s t)

/-- SHR and SHL shift V[x] itself by one, then write the bit shifted out to VF (42_alu.md R149, R151; the flag last is
decision D4, R140). -/
def Obligations.ShiftsSetShiftedOut : Prop :=
  ∀ (x : Nibble) (s : State),
    (∃ t, exec (.shr x) s = .next t ∧ WritesResultFlag x ((s.reg x).toNat / 2) ((s.reg x).toNat % 2) s t) ∧
    (∃ t, exec (.shl x) s = .next t ∧ WritesResultFlag x ((s.reg x).toNat * 2 % 256) ((s.reg x).toNat / 128) s t)

/-- RND writes the entropy operand of the cycle, masked; every byte is admitted (42_alu.md R152; the operand is the
spec's decision D15 and stands in the state by log 2). -/
def Obligations.RndMasksEntropy : Prop :=
  ∀ (x : Nibble) (nn : Byte) (s : State), ∃ t, exec (.rnd x nn) s = .next t ∧ WritesReg x (s.rnd &&& nn) s t

/-! ## Index and memory -/

/-- LD I, ADD I modulo 0x1000 without a flag, and LD F by the low nibble (43_index_memory.md R160, R161, R162). -/
def Obligations.IndexInstructionsWriteIndex : Prop :=
  ∀ (nnn : Addr) (x : Nibble) (s : State),
    ((decode (0xA#4 ++ nnn)).uop = .known (.ldI nnn) ∧
      ∃ t, exec (.ldI nnn) s = .next t ∧ WritesIndex nnn.toNat s t) ∧
    ((decode (0xF#4 ++ x ++ 0x1E#8)).uop = .known (.addI x) ∧
      ∃ t, exec (.addI x) s = .next t ∧ WritesIndex ((s.i.toNat + (s.reg x).toNat) % 0x1000) s t) ∧
    ((decode (0xF#4 ++ x ++ 0x29#8)).uop = .known (.ldF x) ∧
      ∃ t, exec (.ldF x) s = .next t ∧ WritesIndex ((s.reg x).toNat % 16 * 5) s t)

/-- LD B stores the three decimal digits from EA(0) up and leaves I alone, or, where the third would lie past 0xFFF,
halts with OutOfBounds at 0x1000 and writes nothing (43_index_memory.md R163, 20_memory.md R54 to R56). That the check
comes first, does not wrap and reports the lowest bad address is the spec's decision D2 (90_conflicts.md C8, log 14),
and the record with its pc is decision D8 (60_exceptions.md R203). -/
def Obligations.LdBStoresDigits : Prop :=
  ∀ (x : Nibble) (s : State),
    (decode (0xF#4 ++ x ++ 0x33#8)).uop = .known (.ldB x) ∧
    (s.mem.wf = true → s.ea 2 ≤ 0xFFF → ∃ t, exec (.ldB x) s = .next t ∧
      StoresAtIndex [BitVec.ofNat 8 ((s.reg x).toNat / 100), BitVec.ofNat 8 ((s.reg x).toNat / 10 % 10),
        BitVec.ofNat 8 ((s.reg x).toNat % 10)] s t) ∧
    (0xFFF < s.ea 2 → exec (.ldB x) s = .next (haltedWith s .outOfBounds 0x1000#17))

/-- LD [I],Vx stores V0..Vx from EA(0) up, one byte each, and leaves I alone (43_index_memory.md R164; that I stays is
the spec's decision D20). -/
def Obligations.LdMemVxStoresBlock : Prop :=
  ∀ (x : Nibble) (s : State), s.mem.wf = true → s.ea x.toNat ≤ 0xFFF →
    ∃ t bytes, exec (.ldMemVx x) s = .next t ∧ bytes.length = x.toNat + 1 ∧
      (∀ k (h : k < bytes.length), bytes[k] = s.reg (BitVec.ofNat 4 k)) ∧ StoresAtIndex bytes s t

/-- LD Vx,[I] loads V0..Vx from EA(0) up and leaves I and the other registers alone (43_index_memory.md R165; that I
stays is the spec's decision D20). -/
def Obligations.LdVxMemLoadsBlock : Prop :=
  ∀ (x : Nibble) (s : State), s.ea x.toNat ≤ 0xFFF →
    ∃ t, exec (.ldVxMem x) s = .next t ∧
      (∀ r : Nibble, t.reg r = if r.toNat ≤ x.toNat then s.mem.read (s.ea r.toNat) else s.reg r) ∧
      t.pc = s.pc + 2 ∧ SameBeyondRegs s t

/-- A memory instruction one of whose bytes would lie past 0xFFF halts with OutOfBounds at 0x1000, the lowest such
address, and does nothing else; DRW with no row touches no byte (20_memory.md R55, R56; checking first is the spec's
decision D2). -/
def Obligations.OutOfRangeAccessHalts : Prop :=
  ∀ (x y n : Nibble) (s : State),
    (0xFFF < s.ea x.toNat → exec (.ldMemVx x) s = .next (haltedWith s .outOfBounds 0x1000#17) ∧
      exec (.ldVxMem x) s = .next (haltedWith s .outOfBounds 0x1000#17)) ∧
    (n ≠ 0 → 0xFFF < s.ea (n.toNat - 1) →
      exec (.drw x y n) s = .next (haltedWith s .outOfBounds 0x1000#17))

/-- A store to the bytes of the next instruction is what the next fetch reads (20_memory.md R65, which the spec marks
derived). -/
def Obligations.StoreThenFetch : Prop :=
  ∀ s : State, s.mem.wf = true → s.ea 1 ≤ 0xFFF → s.ea 0 = (s.pc + 2).toNat →
    ∃ t, exec (.ldMemVx 1#4) s = .next t ∧ t.fetchWord = s.reg 0#4 ++ s.reg 1#4

/-! ## Display -/

/-- CLS turns all 2048 cells off and changes nothing else (44_display.md R171). -/
def Obligations.ClsClearsDisplay : Prop :=
  ∀ s : State, (decode 0x00E0#16).uop = .known .cls ∧ ∃ t, exec .cls s = .next t ∧
    (∀ cx cy, cx < 64 → cy < 32 → t.pixel cx cy = false) ∧ SameRegs s t ∧ t.i = s.i ∧ t.pc = s.pc + 2 ∧
    SameDevices s t

/-- DRW flips exactly the cells its sprite covers and sets VF to 1 exactly if one of them was on
(44_display.md R170, R172; the bit order and the wrap are the spec's decisions D5, D27). -/
def Obligations.DrwFlipsCoveredCells : Prop :=
  ∀ (x y n : Nibble) (s : State), n = 0 ∨ s.ea (n.toNat - 1) ≤ 0xFFF →
    ∃ t, exec (.drw x y n) s = .next t ∧
      (∀ cx cy, cx < 64 → cy < 32 →
        (spriteCovers s x y n cx cy → t.pixel cx cy = !s.pixel cx cy) ∧
          (¬ spriteCovers s x y n cx cy → t.pixel cx cy = s.pixel cx cy)) ∧
      (t.reg 0xF#4 = 1 ∨ t.reg 0xF#4 = 0) ∧
      (t.reg 0xF#4 = 1 ↔ ∃ cx cy, spriteCovers s x y n cx cy ∧ s.pixel cx cy = true) ∧
      SameRegsBut 0xF#4 s t ∧ t.i = s.i ∧ t.pc = s.pc + 2 ∧ SameDevices s t

/-- A second draw at the same position restores the display, and sets VF to 1 exactly if the first turned a pixel on
(44_display.md R173 (a), (b), (c), which the spec marks derived). -/
def Obligations.DrwTwiceRestores : Prop :=
  ∀ (x y n : Nibble) (s t : State), n = 0 ∨ s.ea (n.toNat - 1) ≤ 0xFFF → exec (.drw x y n) s = .next t →
    t.reg x = s.reg x → t.reg y = s.reg y →
    ∃ u, exec (.drw x y n) t = .next u ∧ u.display = s.display ∧
      (u.reg 0xF#4 = 1 ↔ ∃ cx cy, cx < 64 ∧ cy < 32 ∧ s.pixel cx cy = false ∧ t.pixel cx cy = true)

/-! ## Timers and keys -/

/-- The three timer instructions, and the sound output of LD ST,Vx (45_timers_keys.md R180, R181, R182). -/
def Obligations.TimerInstructionsMove : Prop :=
  ∀ (x : Nibble) (s : State),
    ((decode (0xF#4 ++ x ++ 0x07#8)).uop = .known (.ldVxDt x) ∧
      ∃ t, exec (.ldVxDt x) s = .next t ∧ WritesReg x s.dt s t) ∧
    ((decode (0xF#4 ++ x ++ 0x15#8)).uop = .known (.ldDtVx x) ∧
      ∃ t, exec (.ldDtVx x) s = .next t ∧ t.dt = s.reg x ∧ t.st = s.st ∧ t.timerAcc = s.timerAcc ∧
        SameRegs s t ∧ t.i = s.i ∧ t.display = s.display ∧ t.pc = s.pc + 2 ∧ SameStack s t ∧ SameMemory s t ∧
        SameStatus s t ∧ SameInputs s t) ∧
    ((decode (0xF#4 ++ x ++ 0x18#8)).uop = .known (.ldStVx x) ∧
      ∃ t, exec (.ldStVx x) s = .next t ∧ t.st = s.reg x ∧ (t.soundActive = true ↔ s.reg x ≠ 0) ∧ t.dt = s.dt ∧
        t.timerAcc = s.timerAcc ∧ SameRegs s t ∧ t.i = s.i ∧ t.display = s.display ∧ t.pc = s.pc + 2 ∧
        SameStack s t ∧ SameMemory s t ∧ SameStatus s t ∧ SameInputs s t)

/-- LD Vx,K enters the wait and changes nothing else, pc and V[x] included; no edge is tested
(45_timers_keys.md R184). -/
def Obligations.LdVxKEntersWait : Prop :=
  ∀ (x : Nibble) (s : State), (decode (0xF#4 ++ x ++ 0x0A#8)).uop = .known (.ldVxK x) ∧
    ∃ t, exec (.ldVxK x) s = .next t ∧ t.runState = .awaitingKey x ∧
      t.pc = s.pc ∧ SameRegs s t ∧ t.i = s.i ∧ t.display = s.display ∧ SameStack s t ∧ SameTimers s t ∧
      SameMemory s t ∧ t.fault = s.fault ∧ t.unknownCount = s.unknownCount ∧ SameInputs s t

/-- A waiting `cpu_step` with no key going from up to down changes the latches only: keys held since the last cycle
and keys released do not end the wait (45_timers_keys.md R185, R186; log 2 for the operand kept). -/
def Obligations.WaitHoldsWithoutEdge : Prop :=
  ∀ (s : State) (r : Nibble) (keys : Word) (b : Byte), s.runState = .awaitingKey r →
    (∀ k, k < 16 → keys.getLsbD k = true → s.keyLatch.getLsbD k = true) →
    cpuStep keys b s = .next { s with prevLatch := s.keyLatch, keyLatch := keys, rnd := b }

/-- A waiting `cpu_step` in which key `k` is the lowest to go from up to down puts `k` into V[r], advances pc and runs
on; no instruction is executed (45_timers_keys.md R185; the lowest index is the spec's decision D11, R186). -/
def Obligations.WaitEndsOnLowestEdge : Prop :=
  ∀ (s : State) (r : Nibble) (keys : Word) (b : Byte) (k : Nat), s.runState = .awaitingKey r → k < 16 →
    keys.getLsbD k = true → s.keyLatch.getLsbD k = false →
    (∀ j, j < k → keys.getLsbD j = true → s.keyLatch.getLsbD j = true) →
    ∃ t, cpuStep keys b s = .next t ∧ (t.reg r).toNat = k ∧ SameRegsBut r s t ∧ t.pc = s.pc + 2 ∧
      t.runState = .running ∧ t.i = s.i ∧ t.display = s.display ∧ SameStack s t ∧ SameTimers s t ∧
      SameMemory s t ∧ t.fault = s.fault ∧ t.unknownCount = s.unknownCount ∧ t.keyLatch = keys ∧
      t.prevLatch = s.keyLatch

/-- `timer_step` turns the accumulated time into whole 1/60 s ticks, for every positive unit, and takes them off both
timers, clamped at 0; it touches nothing else, waiting or running (60_exceptions.md R211, R212; the scaled accumulator
is the spec's decision D14). -/
def Obligations.TimerStepCountsTicks : Prop :=
  ∀ (s : State) (units elapsed : Nat), 0 < units → s.runState ≠ .halted →
    ∃ t, s.timerStep units elapsed = t ∧ t.timerAcc = (s.timerAcc + 60 * elapsed) % units ∧
      t.dt.toNat = s.dt.toNat - (s.timerAcc + 60 * elapsed) / units ∧
      t.st.toNat = s.st.toNat - (s.timerAcc + 60 * elapsed) / units ∧
      t = { s with timerAcc := t.timerAcc, dt := t.dt, st := t.st }

/-- Elapsed time may be reported in pieces: two `timer_step` calls do what one of the sum does
(60_exceptions.md R211, R212; decision D14). -/
def Obligations.TimerStepsAdd : Prop :=
  ∀ (s : State) (units e₁ e₂ : Nat), 0 < units →
    (s.timerStep units e₁).timerStep units e₂ = s.timerStep units (e₁ + e₂)

/-- A `timer_step` or a `construct` the host calls is the step's whole work, the first with the open unit at whatever
value it has (60_exceptions.md R211, R214; log 1, log 3, log 12). -/
def Obligations.StepServesTimerAndConstruct : Prop :=
  ∀ (s : State) (elapsed : Nat) (rom : List Byte),
    (s.nextCall = .timerStep elapsed →
      step s = .next (({ s with pending := s.pending.tail, hostCalls := s.hostCalls + 1 } : State).timerStep
        Config.timerUnitsPerSecond elapsed)) ∧
    (s.nextCall = .construct rom →
      step s = construct rom { s with pending := s.pending.tail, hostCalls := s.hostCalls + 1 })
end

