-- ==== Sys2Proof/Laws/Memory.lean ====
section
/-!
SUPPORT. The laws of memory: a read after a write, that every operation keeps the canonical form, and what a run of
writes and a loaded image read as.
-/

namespace Sys2Proof.Machine

@[simp] theorem Memory.read_nil (a : Nat) : Memory.read [] a = Memory.unlisted a := rfl

theorem Memory.read_cons (c : Host.Cell) (m : Memory) (a : Nat) :
    Memory.read (c :: m) a = if a = c.1 then c.2 else Memory.read m a := rfl

@[simp] theorem Memory.risesFrom_nil (lo : Nat) : Memory.risesFrom lo [] = true := rfl

theorem Memory.risesFrom_cons (lo : Nat) (c : Host.Cell) (m : Memory) :
    Memory.risesFrom lo (c :: m) = true ↔ lo ≤ c.1 ∧ Memory.risesFrom (c.1 + 1) m = true := by
  simp [Memory.risesFrom]

theorem Memory.risesFrom_mono {lo hi : Nat} {m : Memory} (h : Memory.risesFrom hi m = true) (le : lo ≤ hi) :
    Memory.risesFrom lo m = true := by
  cases m with
  | nil => rfl
  | cons c m =>
    rw [Memory.risesFrom_cons] at h ⊢
    exact ⟨by omega, h.2⟩

/-- Below where a list begins, memory reads as unlisted. -/
theorem Memory.read_of_lt {lo a : Nat} {m : Memory} (h : Memory.risesFrom lo m = true) (lt : a < lo) :
    Memory.read m a = Memory.unlisted a := by
  induction m generalizing lo with
  | nil => rfl
  | cons c m ih =>
    rw [Memory.risesFrom_cons] at h
    rw [Memory.read_cons, if_neg (by omega), ih h.2 (by omega)]

/-- A listed byte prepended below the rest reads back, listed or not. -/
theorem Memory.read_cell_append {a : Nat} (w : Byte) {m : Memory} (h : Memory.risesFrom (a + 1) m = true) (b : Nat) :
    Memory.read (Memory.cell a w ++ m) b = if b = a then w else Memory.read m b := by
  unfold Memory.cell
  split
  case isTrue hw =>
    by_cases hb : b = a
    · simp [hb, hw, Memory.read_of_lt h (Nat.lt_succ_self a)]
    · simp [hb]
  case isFalse => simp [Memory.read_cons]

/-- Prepending a byte never changes what another address reads as. -/
theorem Memory.read_cell_append_other (a : Nat) (w : Byte) (m : Memory) {b : Nat} (ne : b ≠ a) :
    Memory.read (Memory.cell a w ++ m) b = Memory.read m b := by
  unfold Memory.cell
  split <;> simp [Memory.read_cons, ne]

theorem Memory.risesFrom_cell_append {lo a : Nat} (w : Byte) {m : Memory} (le : lo ≤ a)
    (h : Memory.risesFrom (a + 1) m = true) : Memory.risesFrom lo (Memory.cell a w ++ m) = true := by
  unfold Memory.cell
  split
  · exact Memory.risesFrom_mono h (by omega)
  · exact (Memory.risesFrom_cons _ _ _).2 ⟨le, h⟩

/-- A write leaves every other address alone. -/
theorem Memory.read_write_other (m : Memory) (a : Nat) (w : Byte) {b : Nat} (ne : b ≠ a) :
    Memory.read (Memory.write m a w) b = Memory.read m b := by
  induction m with
  | nil => simpa [Memory.write] using Memory.read_cell_append_other a w [] ne
  | cons c m ih =>
    unfold Memory.write
    split
    · exact Memory.read_cell_append_other a w _ ne
    · split
      case isTrue hac => rw [Memory.read_cell_append_other a w _ ne, Memory.read_cons, if_neg (by omega)]
      case isFalse => rw [Memory.read_cons, Memory.read_cons, ih]

/-- A read returns the byte most recently written to its address (20_memory.md R59). -/
theorem Memory.read_write_same {lo : Nat} {m : Memory} (h : Memory.risesFrom lo m = true) (a : Nat) (w : Byte) :
    Memory.read (Memory.write m a w) a = w := by
  induction m generalizing lo with
  | nil =>
    have := Memory.read_cell_append w (Memory.risesFrom_nil (a + 1)) a
    simpa [Memory.write] using this
  | cons c m ih =>
    rw [Memory.risesFrom_cons] at h
    unfold Memory.write
    split
    case isTrue hlt =>
      rw [Memory.read_cell_append w ((Memory.risesFrom_cons _ _ _).2 ⟨by omega, h.2⟩), if_pos rfl]
    case isFalse hge =>
      split
      case isTrue hac => subst hac; rw [Memory.read_cell_append w h.2, if_pos rfl]
      case isFalse hne => rw [Memory.read_cons, if_neg hne, ih h.2]

theorem Memory.read_write {m : Memory} (h : Memory.risesFrom 0 m = true) (a : Nat) (w : Byte) (b : Nat) :
    Memory.read (Memory.write m a w) b = if b = a then w else Memory.read m b := by
  by_cases hb : b = a
  · subst hb; rw [if_pos rfl, Memory.read_write_same h]
  · rw [if_neg hb, Memory.read_write_other m a w hb]

theorem Memory.risesFrom_write {lo : Nat} {m : Memory} (h : Memory.risesFrom lo m = true) (a : Nat) (w : Byte)
    (le : lo ≤ a) : Memory.risesFrom lo (Memory.write m a w) = true := by
  induction m generalizing lo with
  | nil => simpa [Memory.write] using Memory.risesFrom_cell_append w le (Memory.risesFrom_nil (a + 1))
  | cons c m ih =>
    rw [Memory.risesFrom_cons] at h
    unfold Memory.write
    split
    case isTrue hlt =>
      exact Memory.risesFrom_cell_append w le ((Memory.risesFrom_cons _ _ _).2 ⟨by omega, h.2⟩)
    case isFalse hge =>
      split
      case isTrue hac => subst hac; exact Memory.risesFrom_cell_append w le h.2
      case isFalse hne => exact (Memory.risesFrom_cons _ _ _).2 ⟨h.1, ih h.2 (by omega)⟩

/-- The canonical form, as its two halves. -/
theorem Memory.wf_iff (m : Memory) : m.wf = true ↔
    Memory.risesFrom 0 m = true ∧ ∀ c ∈ m, c.1 ≤ Config.memTop ∧ c.2 ≠ Memory.unlisted c.1 := by
  simp [Memory.wf]

theorem Memory.wf_nil : Memory.wf [] = true := rfl

theorem Memory.mem_cell {a : Nat} {w : Byte} {c : Host.Cell} (h : c ∈ Memory.cell a w) :
    c.1 = a ∧ c.2 ≠ Memory.unlisted c.1 := by
  unfold Memory.cell at h
  split at h <;> simp_all

theorem Memory.mem_write {m : Memory} {a : Nat} {w : Byte} {c : Host.Cell} (h : c ∈ Memory.write m a w) :
    c ∈ m ∨ (c.1 = a ∧ c.2 ≠ Memory.unlisted c.1) := by
  induction m with
  | nil => exact .inr (Memory.mem_cell h)
  | cons d m ih =>
    unfold Memory.write at h
    split at h
    · rcases List.mem_append.1 h with h | h
      · exact .inr (Memory.mem_cell h)
      · exact .inl h
    · split at h
      · rcases List.mem_append.1 h with h | h
        · exact .inr (Memory.mem_cell h)
        · exact .inl (List.mem_cons_of_mem _ h)
      · rcases List.mem_cons.1 h with h | h
        · exact .inl (h ▸ List.mem_cons_self)
        · exact (ih h).imp_left (List.mem_cons_of_mem _)

/-- A write inside the address space keeps the canonical form. -/
theorem Memory.wf_write {m : Memory} (h : m.wf = true) {a : Nat} (w : Byte) (le : a ≤ Config.memTop) :
    (Memory.write m a w).wf = true := by
  rw [Memory.wf_iff] at h ⊢
  refine ⟨Memory.risesFrom_write h.1 a w (Nat.zero_le a), fun c hc => ?_⟩
  rcases Memory.mem_write hc with hc | hc
  · exact h.2 c hc
  · exact ⟨hc.1 ▸ le, hc.2⟩

/-- A run of writes inside the address space keeps the canonical form. -/
theorem Memory.wf_writeBytes {m : Memory} (h : m.wf = true) (a : Nat) (bytes : List Byte)
    (le : a + bytes.length ≤ Config.memTop + 1) : (Memory.writeBytes m a bytes).wf = true := by
  induction bytes generalizing m a with
  | nil => exact h
  | cons w rest ih =>
    simp only [List.length_cons] at le
    exact ih (Memory.wf_write h w (by omega)) (a + 1) (by omega)

/-- A run of writes leaves every address outside it alone. -/
theorem Memory.read_writeBytes_outside (m : Memory) (a : Nat) (bytes : List Byte) {b : Nat}
    (out : b < a ∨ a + bytes.length ≤ b) : Memory.read (Memory.writeBytes m a bytes) b = Memory.read m b := by
  induction bytes generalizing m a with
  | nil => rfl
  | cons w rest ih =>
    simp only [List.length_cons] at out
    rw [Memory.writeBytes, ih _ _ (by omega), Memory.read_write_other m a w (by omega)]

theorem Memory.risesFrom_writeBytes {m : Memory} (h : Memory.risesFrom 0 m = true) (a : Nat) (bytes : List Byte) :
    Memory.risesFrom 0 (Memory.writeBytes m a bytes) = true := by
  induction bytes generalizing m a with
  | nil => exact h
  | cons w rest ih => exact ih (Memory.risesFrom_write h a w (Nat.zero_le a)) (a + 1)

/-- A run of writes reads back byte by byte, ascending from its first address (20_memory.md R53). -/
theorem Memory.read_writeBytes_inside {m : Memory} (h : Memory.risesFrom 0 m = true) (a : Nat) (bytes : List Byte)
    {k : Nat} (lt : k < bytes.length) : Memory.read (Memory.writeBytes m a bytes) (a + k) = bytes[k] := by
  induction bytes generalizing m a k with
  | nil => simp at lt
  | cons w rest ih =>
    cases k with
    | zero =>
      rw [Memory.writeBytes, Memory.read_writeBytes_outside _ _ _ (by omega)]
      simpa using Memory.read_write_same h a w
    | succ k =>
      have := ih (m := Memory.write m a w) (Memory.risesFrom_write h a w (Nat.zero_le a)) (a + 1) (k := k)
        (by simpa using lt)
      rw [Memory.writeBytes, show a + (k + 1) = a + 1 + k by omega, this]
      rfl

theorem Memory.risesFrom_image (a : Nat) (bytes : List Byte) : Memory.risesFrom a (Memory.image a bytes) = true := by
  induction bytes generalizing a with
  | nil => rfl
  | cons w rest ih => exact Memory.risesFrom_cell_append w (Nat.le_refl a) (ih (a + 1))

/-- An image reads as its bytes where it lies and as unlisted elsewhere (70_reset_and_hazards.md R231). -/
theorem Memory.read_image (a : Nat) (bytes : List Byte) (b : Nat) :
    Memory.read (Memory.image a bytes) b =
      if h : a ≤ b ∧ b - a < bytes.length then bytes[b - a] else Memory.unlisted b := by
  induction bytes generalizing a with
  | nil => simp [Memory.image]
  | cons w rest ih =>
    rw [Memory.image, Memory.read_cell_append w (Memory.risesFrom_image (a + 1) rest), ih]
    by_cases hb : b = a
    · simp [hb]
    · rw [if_neg hb]
      by_cases hin : a + 1 ≤ b ∧ b - (a + 1) < rest.length
      · rw [dif_pos hin, dif_pos (by simp only [List.length_cons]; omega)]
        simp only [show b - a = (b - (a + 1)) + 1 by omega, List.getElem_cons_succ]
      · rw [dif_neg hin, dif_neg (by simp only [List.length_cons]; omega)]

theorem Memory.mem_image {a : Nat} {bytes : List Byte} {c : Host.Cell} (h : c ∈ Memory.image a bytes) :
    a ≤ c.1 ∧ c.1 < a + bytes.length ∧ c.2 ≠ Memory.unlisted c.1 := by
  induction bytes generalizing a with
  | nil => simp [Memory.image] at h
  | cons w rest ih =>
    rw [List.length_cons]
    rcases List.mem_append.1 h with h | h
    · have := Memory.mem_cell h
      exact ⟨by omega, by omega, this.2⟩
    · have := ih h
      exact ⟨by omega, by omega, this.2.2⟩

/-- The image of a ROM that fits has the canonical form (60_exceptions.md R209). -/
theorem Memory.wf_image {rom : List Byte} (h : rom.length ≤ Config.progMax) :
    (Memory.image Config.progBase rom).wf = true := by
  rw [Memory.wf_iff]
  refine ⟨Memory.risesFrom_mono (Memory.risesFrom_image _ _) (Nat.zero_le _), fun c hc => ?_⟩
  have := Memory.mem_image hc
  simp only [Config.progBase, Config.progMax, Config.memTop] at *
  exact ⟨by omega, this.2.2⟩

/-- Reset memory has the canonical form. -/
theorem State.reset_mem_wf : State.reset.mem.wf = true := rfl

end Sys2Proof.Machine
end

