-- ==== Sys2Proof/Laws/State.lean ====
section
/-!
SUPPORT. One lemma per field per named operation of Machine/Ops.lean, true by definition, so that no later proof
unfolds a record update; and what the registers read as after each operation.
-/

namespace Sys2Proof.Machine

variable (s : State)

/-! ### `State.setReg` -/

@[simp] theorem State.setReg_v (r : Nibble) (b : Byte) : (s.setReg r b).v = s.v.set r.toNat b r.isLt := rfl
@[simp] theorem State.setReg_i (r : Nibble) (b : Byte) : (s.setReg r b).i = s.i := rfl
@[simp] theorem State.setReg_pc (r : Nibble) (b : Byte) : (s.setReg r b).pc = s.pc := rfl
@[simp] theorem State.setReg_sp (r : Nibble) (b : Byte) : (s.setReg r b).sp = s.sp := rfl
@[simp] theorem State.setReg_stack (r : Nibble) (b : Byte) : (s.setReg r b).stack = s.stack := rfl
@[simp] theorem State.setReg_dt (r : Nibble) (b : Byte) : (s.setReg r b).dt = s.dt := rfl
@[simp] theorem State.setReg_st (r : Nibble) (b : Byte) : (s.setReg r b).st = s.st := rfl
@[simp] theorem State.setReg_timerAcc (r : Nibble) (b : Byte) : (s.setReg r b).timerAcc = s.timerAcc := rfl
@[simp] theorem State.setReg_mem (r : Nibble) (b : Byte) : (s.setReg r b).mem = s.mem := rfl
@[simp] theorem State.setReg_display (r : Nibble) (b : Byte) : (s.setReg r b).display = s.display := rfl
@[simp] theorem State.setReg_keyLatch (r : Nibble) (b : Byte) : (s.setReg r b).keyLatch = s.keyLatch := rfl
@[simp] theorem State.setReg_prevLatch (r : Nibble) (b : Byte) : (s.setReg r b).prevLatch = s.prevLatch := rfl
@[simp] theorem State.setReg_runState (r : Nibble) (b : Byte) : (s.setReg r b).runState = s.runState := rfl
@[simp] theorem State.setReg_fault (r : Nibble) (b : Byte) : (s.setReg r b).fault = s.fault := rfl
@[simp] theorem State.setReg_unknownCount (r : Nibble) (b : Byte) : (s.setReg r b).unknownCount = s.unknownCount := rfl
@[simp] theorem State.setReg_rnd (r : Nibble) (b : Byte) : (s.setReg r b).rnd = s.rnd := rfl
@[simp] theorem State.setReg_pending (r : Nibble) (b : Byte) : (s.setReg r b).pending = s.pending := rfl
@[simp] theorem State.setReg_hostCalls (r : Nibble) (b : Byte) : (s.setReg r b).hostCalls = s.hostCalls := rfl

/-- A register reads as what was last written to it, and as before where another was written (00_scope.md R8). -/
@[simp] theorem State.setReg_reg (r : Nibble) (b : Byte) (q : Nibble) :
    (s.setReg r b).reg q = if q = r then b else s.reg q := by
  simp only [State.reg, State.setReg, Vector.getElem_set, BitVec.toNat_inj, eq_comm (a := r)]

/-! ### `State.setIndex` -/

@[simp] theorem State.setIndex_v (a : Word) : (s.setIndex a).v = s.v := rfl
@[simp] theorem State.setIndex_i (a : Word) : (s.setIndex a).i = a := rfl
@[simp] theorem State.setIndex_pc (a : Word) : (s.setIndex a).pc = s.pc := rfl
@[simp] theorem State.setIndex_sp (a : Word) : (s.setIndex a).sp = s.sp := rfl
@[simp] theorem State.setIndex_stack (a : Word) : (s.setIndex a).stack = s.stack := rfl
@[simp] theorem State.setIndex_dt (a : Word) : (s.setIndex a).dt = s.dt := rfl
@[simp] theorem State.setIndex_st (a : Word) : (s.setIndex a).st = s.st := rfl
@[simp] theorem State.setIndex_timerAcc (a : Word) : (s.setIndex a).timerAcc = s.timerAcc := rfl
@[simp] theorem State.setIndex_mem (a : Word) : (s.setIndex a).mem = s.mem := rfl
@[simp] theorem State.setIndex_display (a : Word) : (s.setIndex a).display = s.display := rfl
@[simp] theorem State.setIndex_keyLatch (a : Word) : (s.setIndex a).keyLatch = s.keyLatch := rfl
@[simp] theorem State.setIndex_prevLatch (a : Word) : (s.setIndex a).prevLatch = s.prevLatch := rfl
@[simp] theorem State.setIndex_runState (a : Word) : (s.setIndex a).runState = s.runState := rfl
@[simp] theorem State.setIndex_fault (a : Word) : (s.setIndex a).fault = s.fault := rfl
@[simp] theorem State.setIndex_unknownCount (a : Word) : (s.setIndex a).unknownCount = s.unknownCount := rfl
@[simp] theorem State.setIndex_rnd (a : Word) : (s.setIndex a).rnd = s.rnd := rfl
@[simp] theorem State.setIndex_pending (a : Word) : (s.setIndex a).pending = s.pending := rfl
@[simp] theorem State.setIndex_hostCalls (a : Word) : (s.setIndex a).hostCalls = s.hostCalls := rfl
@[simp] theorem State.setIndex_reg (a : Word) (q : Nibble) : (s.setIndex a).reg q = s.reg q := rfl

/-! ### `State.setPc` -/

@[simp] theorem State.setPc_v (a : Word) : (s.setPc a).v = s.v := rfl
@[simp] theorem State.setPc_i (a : Word) : (s.setPc a).i = s.i := rfl
@[simp] theorem State.setPc_pc (a : Word) : (s.setPc a).pc = a := rfl
@[simp] theorem State.setPc_sp (a : Word) : (s.setPc a).sp = s.sp := rfl
@[simp] theorem State.setPc_stack (a : Word) : (s.setPc a).stack = s.stack := rfl
@[simp] theorem State.setPc_dt (a : Word) : (s.setPc a).dt = s.dt := rfl
@[simp] theorem State.setPc_st (a : Word) : (s.setPc a).st = s.st := rfl
@[simp] theorem State.setPc_timerAcc (a : Word) : (s.setPc a).timerAcc = s.timerAcc := rfl
@[simp] theorem State.setPc_mem (a : Word) : (s.setPc a).mem = s.mem := rfl
@[simp] theorem State.setPc_display (a : Word) : (s.setPc a).display = s.display := rfl
@[simp] theorem State.setPc_keyLatch (a : Word) : (s.setPc a).keyLatch = s.keyLatch := rfl
@[simp] theorem State.setPc_prevLatch (a : Word) : (s.setPc a).prevLatch = s.prevLatch := rfl
@[simp] theorem State.setPc_runState (a : Word) : (s.setPc a).runState = s.runState := rfl
@[simp] theorem State.setPc_fault (a : Word) : (s.setPc a).fault = s.fault := rfl
@[simp] theorem State.setPc_unknownCount (a : Word) : (s.setPc a).unknownCount = s.unknownCount := rfl
@[simp] theorem State.setPc_rnd (a : Word) : (s.setPc a).rnd = s.rnd := rfl
@[simp] theorem State.setPc_pending (a : Word) : (s.setPc a).pending = s.pending := rfl
@[simp] theorem State.setPc_hostCalls (a : Word) : (s.setPc a).hostCalls = s.hostCalls := rfl
@[simp] theorem State.setPc_reg (a : Word) (q : Nibble) : (s.setPc a).reg q = s.reg q := rfl

/-! ### `State.advance` -/

@[simp] theorem State.advance_v : (s.advance).v = s.v := rfl
@[simp] theorem State.advance_i : (s.advance).i = s.i := rfl
@[simp] theorem State.advance_pc : (s.advance).pc = s.pc + 2 := rfl
@[simp] theorem State.advance_sp : (s.advance).sp = s.sp := rfl
@[simp] theorem State.advance_stack : (s.advance).stack = s.stack := rfl
@[simp] theorem State.advance_dt : (s.advance).dt = s.dt := rfl
@[simp] theorem State.advance_st : (s.advance).st = s.st := rfl
@[simp] theorem State.advance_timerAcc : (s.advance).timerAcc = s.timerAcc := rfl
@[simp] theorem State.advance_mem : (s.advance).mem = s.mem := rfl
@[simp] theorem State.advance_display : (s.advance).display = s.display := rfl
@[simp] theorem State.advance_keyLatch : (s.advance).keyLatch = s.keyLatch := rfl
@[simp] theorem State.advance_prevLatch : (s.advance).prevLatch = s.prevLatch := rfl
@[simp] theorem State.advance_runState : (s.advance).runState = s.runState := rfl
@[simp] theorem State.advance_fault : (s.advance).fault = s.fault := rfl
@[simp] theorem State.advance_unknownCount : (s.advance).unknownCount = s.unknownCount := rfl
@[simp] theorem State.advance_rnd : (s.advance).rnd = s.rnd := rfl
@[simp] theorem State.advance_pending : (s.advance).pending = s.pending := rfl
@[simp] theorem State.advance_hostCalls : (s.advance).hostCalls = s.hostCalls := rfl
@[simp] theorem State.advance_reg (q : Nibble) : (s.advance).reg q = s.reg q := rfl

/-! ### `State.skipIf` -/

@[simp] theorem State.skipIf_v (c : Bool) : (s.skipIf c).v = s.v := rfl
@[simp] theorem State.skipIf_i (c : Bool) : (s.skipIf c).i = s.i := rfl
@[simp] theorem State.skipIf_pc (c : Bool) : (s.skipIf c).pc = s.pc + if c then 4 else 2 := rfl
@[simp] theorem State.skipIf_sp (c : Bool) : (s.skipIf c).sp = s.sp := rfl
@[simp] theorem State.skipIf_stack (c : Bool) : (s.skipIf c).stack = s.stack := rfl
@[simp] theorem State.skipIf_dt (c : Bool) : (s.skipIf c).dt = s.dt := rfl
@[simp] theorem State.skipIf_st (c : Bool) : (s.skipIf c).st = s.st := rfl
@[simp] theorem State.skipIf_timerAcc (c : Bool) : (s.skipIf c).timerAcc = s.timerAcc := rfl
@[simp] theorem State.skipIf_mem (c : Bool) : (s.skipIf c).mem = s.mem := rfl
@[simp] theorem State.skipIf_display (c : Bool) : (s.skipIf c).display = s.display := rfl
@[simp] theorem State.skipIf_keyLatch (c : Bool) : (s.skipIf c).keyLatch = s.keyLatch := rfl
@[simp] theorem State.skipIf_prevLatch (c : Bool) : (s.skipIf c).prevLatch = s.prevLatch := rfl
@[simp] theorem State.skipIf_runState (c : Bool) : (s.skipIf c).runState = s.runState := rfl
@[simp] theorem State.skipIf_fault (c : Bool) : (s.skipIf c).fault = s.fault := rfl
@[simp] theorem State.skipIf_unknownCount (c : Bool) : (s.skipIf c).unknownCount = s.unknownCount := rfl
@[simp] theorem State.skipIf_rnd (c : Bool) : (s.skipIf c).rnd = s.rnd := rfl
@[simp] theorem State.skipIf_pending (c : Bool) : (s.skipIf c).pending = s.pending := rfl
@[simp] theorem State.skipIf_hostCalls (c : Bool) : (s.skipIf c).hostCalls = s.hostCalls := rfl
@[simp] theorem State.skipIf_reg (c : Bool) (q : Nibble) : (s.skipIf c).reg q = s.reg q := rfl

/-! ### `State.pushReturn` -/

@[simp] theorem State.pushReturn_v (a : Word) : (s.pushReturn a).v = s.v := rfl
@[simp] theorem State.pushReturn_i (a : Word) : (s.pushReturn a).i = s.i := rfl
@[simp] theorem State.pushReturn_pc (a : Word) : (s.pushReturn a).pc = s.pc := rfl
@[simp] theorem State.pushReturn_sp (a : Word) : (s.pushReturn a).sp = Fin.ofNat 17 (s.sp.val + 1) := rfl
@[simp] theorem State.pushReturn_stack (a : Word) : (s.pushReturn a).stack = s.stack.setIfInBounds s.sp.val a := rfl
@[simp] theorem State.pushReturn_dt (a : Word) : (s.pushReturn a).dt = s.dt := rfl
@[simp] theorem State.pushReturn_st (a : Word) : (s.pushReturn a).st = s.st := rfl
@[simp] theorem State.pushReturn_timerAcc (a : Word) : (s.pushReturn a).timerAcc = s.timerAcc := rfl
@[simp] theorem State.pushReturn_mem (a : Word) : (s.pushReturn a).mem = s.mem := rfl
@[simp] theorem State.pushReturn_display (a : Word) : (s.pushReturn a).display = s.display := rfl
@[simp] theorem State.pushReturn_keyLatch (a : Word) : (s.pushReturn a).keyLatch = s.keyLatch := rfl
@[simp] theorem State.pushReturn_prevLatch (a : Word) : (s.pushReturn a).prevLatch = s.prevLatch := rfl
@[simp] theorem State.pushReturn_runState (a : Word) : (s.pushReturn a).runState = s.runState := rfl
@[simp] theorem State.pushReturn_fault (a : Word) : (s.pushReturn a).fault = s.fault := rfl
@[simp] theorem State.pushReturn_unknownCount (a : Word) : (s.pushReturn a).unknownCount = s.unknownCount := rfl
@[simp] theorem State.pushReturn_rnd (a : Word) : (s.pushReturn a).rnd = s.rnd := rfl
@[simp] theorem State.pushReturn_pending (a : Word) : (s.pushReturn a).pending = s.pending := rfl
@[simp] theorem State.pushReturn_hostCalls (a : Word) : (s.pushReturn a).hostCalls = s.hostCalls := rfl
@[simp] theorem State.pushReturn_reg (a : Word) (q : Nibble) : (s.pushReturn a).reg q = s.reg q := rfl

/-! ### `State.popReturn` -/

@[simp] theorem State.popReturn_v : (s.popReturn).v = s.v := rfl
@[simp] theorem State.popReturn_i : (s.popReturn).i = s.i := rfl
@[simp] theorem State.popReturn_pc : (s.popReturn).pc = s.pc := rfl
@[simp] theorem State.popReturn_sp : (s.popReturn).sp = Fin.ofNat 17 (s.sp.val - 1) := rfl
@[simp] theorem State.popReturn_stack : (s.popReturn).stack = s.stack := rfl
@[simp] theorem State.popReturn_dt : (s.popReturn).dt = s.dt := rfl
@[simp] theorem State.popReturn_st : (s.popReturn).st = s.st := rfl
@[simp] theorem State.popReturn_timerAcc : (s.popReturn).timerAcc = s.timerAcc := rfl
@[simp] theorem State.popReturn_mem : (s.popReturn).mem = s.mem := rfl
@[simp] theorem State.popReturn_display : (s.popReturn).display = s.display := rfl
@[simp] theorem State.popReturn_keyLatch : (s.popReturn).keyLatch = s.keyLatch := rfl
@[simp] theorem State.popReturn_prevLatch : (s.popReturn).prevLatch = s.prevLatch := rfl
@[simp] theorem State.popReturn_runState : (s.popReturn).runState = s.runState := rfl
@[simp] theorem State.popReturn_fault : (s.popReturn).fault = s.fault := rfl
@[simp] theorem State.popReturn_unknownCount : (s.popReturn).unknownCount = s.unknownCount := rfl
@[simp] theorem State.popReturn_rnd : (s.popReturn).rnd = s.rnd := rfl
@[simp] theorem State.popReturn_pending : (s.popReturn).pending = s.pending := rfl
@[simp] theorem State.popReturn_hostCalls : (s.popReturn).hostCalls = s.hostCalls := rfl
@[simp] theorem State.popReturn_reg (q : Nibble) : (s.popReturn).reg q = s.reg q := rfl

/-! ### `State.setDelay` -/

@[simp] theorem State.setDelay_v (b : Byte) : (s.setDelay b).v = s.v := rfl
@[simp] theorem State.setDelay_i (b : Byte) : (s.setDelay b).i = s.i := rfl
@[simp] theorem State.setDelay_pc (b : Byte) : (s.setDelay b).pc = s.pc := rfl
@[simp] theorem State.setDelay_sp (b : Byte) : (s.setDelay b).sp = s.sp := rfl
@[simp] theorem State.setDelay_stack (b : Byte) : (s.setDelay b).stack = s.stack := rfl
@[simp] theorem State.setDelay_dt (b : Byte) : (s.setDelay b).dt = b := rfl
@[simp] theorem State.setDelay_st (b : Byte) : (s.setDelay b).st = s.st := rfl
@[simp] theorem State.setDelay_timerAcc (b : Byte) : (s.setDelay b).timerAcc = s.timerAcc := rfl
@[simp] theorem State.setDelay_mem (b : Byte) : (s.setDelay b).mem = s.mem := rfl
@[simp] theorem State.setDelay_display (b : Byte) : (s.setDelay b).display = s.display := rfl
@[simp] theorem State.setDelay_keyLatch (b : Byte) : (s.setDelay b).keyLatch = s.keyLatch := rfl
@[simp] theorem State.setDelay_prevLatch (b : Byte) : (s.setDelay b).prevLatch = s.prevLatch := rfl
@[simp] theorem State.setDelay_runState (b : Byte) : (s.setDelay b).runState = s.runState := rfl
@[simp] theorem State.setDelay_fault (b : Byte) : (s.setDelay b).fault = s.fault := rfl
@[simp] theorem State.setDelay_unknownCount (b : Byte) : (s.setDelay b).unknownCount = s.unknownCount := rfl
@[simp] theorem State.setDelay_rnd (b : Byte) : (s.setDelay b).rnd = s.rnd := rfl
@[simp] theorem State.setDelay_pending (b : Byte) : (s.setDelay b).pending = s.pending := rfl
@[simp] theorem State.setDelay_hostCalls (b : Byte) : (s.setDelay b).hostCalls = s.hostCalls := rfl
@[simp] theorem State.setDelay_reg (b : Byte) (q : Nibble) : (s.setDelay b).reg q = s.reg q := rfl

/-! ### `State.setSound` -/

@[simp] theorem State.setSound_v (b : Byte) : (s.setSound b).v = s.v := rfl
@[simp] theorem State.setSound_i (b : Byte) : (s.setSound b).i = s.i := rfl
@[simp] theorem State.setSound_pc (b : Byte) : (s.setSound b).pc = s.pc := rfl
@[simp] theorem State.setSound_sp (b : Byte) : (s.setSound b).sp = s.sp := rfl
@[simp] theorem State.setSound_stack (b : Byte) : (s.setSound b).stack = s.stack := rfl
@[simp] theorem State.setSound_dt (b : Byte) : (s.setSound b).dt = s.dt := rfl
@[simp] theorem State.setSound_st (b : Byte) : (s.setSound b).st = b := rfl
@[simp] theorem State.setSound_timerAcc (b : Byte) : (s.setSound b).timerAcc = s.timerAcc := rfl
@[simp] theorem State.setSound_mem (b : Byte) : (s.setSound b).mem = s.mem := rfl
@[simp] theorem State.setSound_display (b : Byte) : (s.setSound b).display = s.display := rfl
@[simp] theorem State.setSound_keyLatch (b : Byte) : (s.setSound b).keyLatch = s.keyLatch := rfl
@[simp] theorem State.setSound_prevLatch (b : Byte) : (s.setSound b).prevLatch = s.prevLatch := rfl
@[simp] theorem State.setSound_runState (b : Byte) : (s.setSound b).runState = s.runState := rfl
@[simp] theorem State.setSound_fault (b : Byte) : (s.setSound b).fault = s.fault := rfl
@[simp] theorem State.setSound_unknownCount (b : Byte) : (s.setSound b).unknownCount = s.unknownCount := rfl
@[simp] theorem State.setSound_rnd (b : Byte) : (s.setSound b).rnd = s.rnd := rfl
@[simp] theorem State.setSound_pending (b : Byte) : (s.setSound b).pending = s.pending := rfl
@[simp] theorem State.setSound_hostCalls (b : Byte) : (s.setSound b).hostCalls = s.hostCalls := rfl
@[simp] theorem State.setSound_reg (b : Byte) (q : Nibble) : (s.setSound b).reg q = s.reg q := rfl

/-! ### `State.setTimers` -/

@[simp] theorem State.setTimers_v (k : Nat) (d e : Byte) : (s.setTimers k d e).v = s.v := rfl
@[simp] theorem State.setTimers_i (k : Nat) (d e : Byte) : (s.setTimers k d e).i = s.i := rfl
@[simp] theorem State.setTimers_pc (k : Nat) (d e : Byte) : (s.setTimers k d e).pc = s.pc := rfl
@[simp] theorem State.setTimers_sp (k : Nat) (d e : Byte) : (s.setTimers k d e).sp = s.sp := rfl
@[simp] theorem State.setTimers_stack (k : Nat) (d e : Byte) : (s.setTimers k d e).stack = s.stack := rfl
@[simp] theorem State.setTimers_dt (k : Nat) (d e : Byte) : (s.setTimers k d e).dt = d := rfl
@[simp] theorem State.setTimers_st (k : Nat) (d e : Byte) : (s.setTimers k d e).st = e := rfl
@[simp] theorem State.setTimers_timerAcc (k : Nat) (d e : Byte) : (s.setTimers k d e).timerAcc = k := rfl
@[simp] theorem State.setTimers_mem (k : Nat) (d e : Byte) : (s.setTimers k d e).mem = s.mem := rfl
@[simp] theorem State.setTimers_display (k : Nat) (d e : Byte) : (s.setTimers k d e).display = s.display := rfl
@[simp] theorem State.setTimers_keyLatch (k : Nat) (d e : Byte) : (s.setTimers k d e).keyLatch = s.keyLatch := rfl
@[simp] theorem State.setTimers_prevLatch (k : Nat) (d e : Byte) : (s.setTimers k d e).prevLatch = s.prevLatch := rfl
@[simp] theorem State.setTimers_runState (k : Nat) (d e : Byte) : (s.setTimers k d e).runState = s.runState := rfl
@[simp] theorem State.setTimers_fault (k : Nat) (d e : Byte) : (s.setTimers k d e).fault = s.fault := rfl
@[simp] theorem State.setTimers_unknownCount (k : Nat) (d e : Byte) : (s.setTimers k d e).unknownCount = s.unknownCount := rfl
@[simp] theorem State.setTimers_rnd (k : Nat) (d e : Byte) : (s.setTimers k d e).rnd = s.rnd := rfl
@[simp] theorem State.setTimers_pending (k : Nat) (d e : Byte) : (s.setTimers k d e).pending = s.pending := rfl
@[simp] theorem State.setTimers_hostCalls (k : Nat) (d e : Byte) : (s.setTimers k d e).hostCalls = s.hostCalls := rfl
@[simp] theorem State.setTimers_reg (k : Nat) (d e : Byte) (q : Nibble) : (s.setTimers k d e).reg q = s.reg q := rfl

/-! ### `State.setMem` -/

@[simp] theorem State.setMem_v (m : Memory) : (s.setMem m).v = s.v := rfl
@[simp] theorem State.setMem_i (m : Memory) : (s.setMem m).i = s.i := rfl
@[simp] theorem State.setMem_pc (m : Memory) : (s.setMem m).pc = s.pc := rfl
@[simp] theorem State.setMem_sp (m : Memory) : (s.setMem m).sp = s.sp := rfl
@[simp] theorem State.setMem_stack (m : Memory) : (s.setMem m).stack = s.stack := rfl
@[simp] theorem State.setMem_dt (m : Memory) : (s.setMem m).dt = s.dt := rfl
@[simp] theorem State.setMem_st (m : Memory) : (s.setMem m).st = s.st := rfl
@[simp] theorem State.setMem_timerAcc (m : Memory) : (s.setMem m).timerAcc = s.timerAcc := rfl
@[simp] theorem State.setMem_mem (m : Memory) : (s.setMem m).mem = m := rfl
@[simp] theorem State.setMem_display (m : Memory) : (s.setMem m).display = s.display := rfl
@[simp] theorem State.setMem_keyLatch (m : Memory) : (s.setMem m).keyLatch = s.keyLatch := rfl
@[simp] theorem State.setMem_prevLatch (m : Memory) : (s.setMem m).prevLatch = s.prevLatch := rfl
@[simp] theorem State.setMem_runState (m : Memory) : (s.setMem m).runState = s.runState := rfl
@[simp] theorem State.setMem_fault (m : Memory) : (s.setMem m).fault = s.fault := rfl
@[simp] theorem State.setMem_unknownCount (m : Memory) : (s.setMem m).unknownCount = s.unknownCount := rfl
@[simp] theorem State.setMem_rnd (m : Memory) : (s.setMem m).rnd = s.rnd := rfl
@[simp] theorem State.setMem_pending (m : Memory) : (s.setMem m).pending = s.pending := rfl
@[simp] theorem State.setMem_hostCalls (m : Memory) : (s.setMem m).hostCalls = s.hostCalls := rfl
@[simp] theorem State.setMem_reg (m : Memory) (q : Nibble) : (s.setMem m).reg q = s.reg q := rfl

/-! ### `State.setDisplay` -/

@[simp] theorem State.setDisplay_v (d : Screen) : (s.setDisplay d).v = s.v := rfl
@[simp] theorem State.setDisplay_i (d : Screen) : (s.setDisplay d).i = s.i := rfl
@[simp] theorem State.setDisplay_pc (d : Screen) : (s.setDisplay d).pc = s.pc := rfl
@[simp] theorem State.setDisplay_sp (d : Screen) : (s.setDisplay d).sp = s.sp := rfl
@[simp] theorem State.setDisplay_stack (d : Screen) : (s.setDisplay d).stack = s.stack := rfl
@[simp] theorem State.setDisplay_dt (d : Screen) : (s.setDisplay d).dt = s.dt := rfl
@[simp] theorem State.setDisplay_st (d : Screen) : (s.setDisplay d).st = s.st := rfl
@[simp] theorem State.setDisplay_timerAcc (d : Screen) : (s.setDisplay d).timerAcc = s.timerAcc := rfl
@[simp] theorem State.setDisplay_mem (d : Screen) : (s.setDisplay d).mem = s.mem := rfl
@[simp] theorem State.setDisplay_display (d : Screen) : (s.setDisplay d).display = d := rfl
@[simp] theorem State.setDisplay_keyLatch (d : Screen) : (s.setDisplay d).keyLatch = s.keyLatch := rfl
@[simp] theorem State.setDisplay_prevLatch (d : Screen) : (s.setDisplay d).prevLatch = s.prevLatch := rfl
@[simp] theorem State.setDisplay_runState (d : Screen) : (s.setDisplay d).runState = s.runState := rfl
@[simp] theorem State.setDisplay_fault (d : Screen) : (s.setDisplay d).fault = s.fault := rfl
@[simp] theorem State.setDisplay_unknownCount (d : Screen) : (s.setDisplay d).unknownCount = s.unknownCount := rfl
@[simp] theorem State.setDisplay_rnd (d : Screen) : (s.setDisplay d).rnd = s.rnd := rfl
@[simp] theorem State.setDisplay_pending (d : Screen) : (s.setDisplay d).pending = s.pending := rfl
@[simp] theorem State.setDisplay_hostCalls (d : Screen) : (s.setDisplay d).hostCalls = s.hostCalls := rfl
@[simp] theorem State.setDisplay_reg (d : Screen) (q : Nibble) : (s.setDisplay d).reg q = s.reg q := rfl

/-! ### `State.latchInputs` -/

@[simp] theorem State.latchInputs_v (k : Word) (b : Byte) : (s.latchInputs k b).v = s.v := rfl
@[simp] theorem State.latchInputs_i (k : Word) (b : Byte) : (s.latchInputs k b).i = s.i := rfl
@[simp] theorem State.latchInputs_pc (k : Word) (b : Byte) : (s.latchInputs k b).pc = s.pc := rfl
@[simp] theorem State.latchInputs_sp (k : Word) (b : Byte) : (s.latchInputs k b).sp = s.sp := rfl
@[simp] theorem State.latchInputs_stack (k : Word) (b : Byte) : (s.latchInputs k b).stack = s.stack := rfl
@[simp] theorem State.latchInputs_dt (k : Word) (b : Byte) : (s.latchInputs k b).dt = s.dt := rfl
@[simp] theorem State.latchInputs_st (k : Word) (b : Byte) : (s.latchInputs k b).st = s.st := rfl
@[simp] theorem State.latchInputs_timerAcc (k : Word) (b : Byte) : (s.latchInputs k b).timerAcc = s.timerAcc := rfl
@[simp] theorem State.latchInputs_mem (k : Word) (b : Byte) : (s.latchInputs k b).mem = s.mem := rfl
@[simp] theorem State.latchInputs_display (k : Word) (b : Byte) : (s.latchInputs k b).display = s.display := rfl
@[simp] theorem State.latchInputs_keyLatch (k : Word) (b : Byte) : (s.latchInputs k b).keyLatch = k := rfl
@[simp] theorem State.latchInputs_prevLatch (k : Word) (b : Byte) : (s.latchInputs k b).prevLatch = s.keyLatch := rfl
@[simp] theorem State.latchInputs_runState (k : Word) (b : Byte) : (s.latchInputs k b).runState = s.runState := rfl
@[simp] theorem State.latchInputs_fault (k : Word) (b : Byte) : (s.latchInputs k b).fault = s.fault := rfl
@[simp] theorem State.latchInputs_unknownCount (k : Word) (b : Byte) : (s.latchInputs k b).unknownCount = s.unknownCount := rfl
@[simp] theorem State.latchInputs_rnd (k : Word) (b : Byte) : (s.latchInputs k b).rnd = b := rfl
@[simp] theorem State.latchInputs_pending (k : Word) (b : Byte) : (s.latchInputs k b).pending = s.pending := rfl
@[simp] theorem State.latchInputs_hostCalls (k : Word) (b : Byte) : (s.latchInputs k b).hostCalls = s.hostCalls := rfl
@[simp] theorem State.latchInputs_reg (k : Word) (b : Byte) (q : Nibble) : (s.latchInputs k b).reg q = s.reg q := rfl

/-! ### `State.setRunState` -/

@[simp] theorem State.setRunState_v (r : RunState) : (s.setRunState r).v = s.v := rfl
@[simp] theorem State.setRunState_i (r : RunState) : (s.setRunState r).i = s.i := rfl
@[simp] theorem State.setRunState_pc (r : RunState) : (s.setRunState r).pc = s.pc := rfl
@[simp] theorem State.setRunState_sp (r : RunState) : (s.setRunState r).sp = s.sp := rfl
@[simp] theorem State.setRunState_stack (r : RunState) : (s.setRunState r).stack = s.stack := rfl
@[simp] theorem State.setRunState_dt (r : RunState) : (s.setRunState r).dt = s.dt := rfl
@[simp] theorem State.setRunState_st (r : RunState) : (s.setRunState r).st = s.st := rfl
@[simp] theorem State.setRunState_timerAcc (r : RunState) : (s.setRunState r).timerAcc = s.timerAcc := rfl
@[simp] theorem State.setRunState_mem (r : RunState) : (s.setRunState r).mem = s.mem := rfl
@[simp] theorem State.setRunState_display (r : RunState) : (s.setRunState r).display = s.display := rfl
@[simp] theorem State.setRunState_keyLatch (r : RunState) : (s.setRunState r).keyLatch = s.keyLatch := rfl
@[simp] theorem State.setRunState_prevLatch (r : RunState) : (s.setRunState r).prevLatch = s.prevLatch := rfl
@[simp] theorem State.setRunState_runState (r : RunState) : (s.setRunState r).runState = r := rfl
@[simp] theorem State.setRunState_fault (r : RunState) : (s.setRunState r).fault = s.fault := rfl
@[simp] theorem State.setRunState_unknownCount (r : RunState) : (s.setRunState r).unknownCount = s.unknownCount := rfl
@[simp] theorem State.setRunState_rnd (r : RunState) : (s.setRunState r).rnd = s.rnd := rfl
@[simp] theorem State.setRunState_pending (r : RunState) : (s.setRunState r).pending = s.pending := rfl
@[simp] theorem State.setRunState_hostCalls (r : RunState) : (s.setRunState r).hostCalls = s.hostCalls := rfl
@[simp] theorem State.setRunState_reg (r : RunState) (q : Nibble) : (s.setRunState r).reg q = s.reg q := rfl

/-! ### `State.countUnknown` -/

@[simp] theorem State.countUnknown_v : (s.countUnknown).v = s.v := rfl
@[simp] theorem State.countUnknown_i : (s.countUnknown).i = s.i := rfl
@[simp] theorem State.countUnknown_pc : (s.countUnknown).pc = s.pc := rfl
@[simp] theorem State.countUnknown_sp : (s.countUnknown).sp = s.sp := rfl
@[simp] theorem State.countUnknown_stack : (s.countUnknown).stack = s.stack := rfl
@[simp] theorem State.countUnknown_dt : (s.countUnknown).dt = s.dt := rfl
@[simp] theorem State.countUnknown_st : (s.countUnknown).st = s.st := rfl
@[simp] theorem State.countUnknown_timerAcc : (s.countUnknown).timerAcc = s.timerAcc := rfl
@[simp] theorem State.countUnknown_mem : (s.countUnknown).mem = s.mem := rfl
@[simp] theorem State.countUnknown_display : (s.countUnknown).display = s.display := rfl
@[simp] theorem State.countUnknown_keyLatch : (s.countUnknown).keyLatch = s.keyLatch := rfl
@[simp] theorem State.countUnknown_prevLatch : (s.countUnknown).prevLatch = s.prevLatch := rfl
@[simp] theorem State.countUnknown_runState : (s.countUnknown).runState = s.runState := rfl
@[simp] theorem State.countUnknown_fault : (s.countUnknown).fault = s.fault := rfl
@[simp] theorem State.countUnknown_unknownCount : (s.countUnknown).unknownCount = BitVec.ofNat 32 (min (s.unknownCount.toNat + 1) 0xFFFFFFFF) := rfl
@[simp] theorem State.countUnknown_rnd : (s.countUnknown).rnd = s.rnd := rfl
@[simp] theorem State.countUnknown_pending : (s.countUnknown).pending = s.pending := rfl
@[simp] theorem State.countUnknown_hostCalls : (s.countUnknown).hostCalls = s.hostCalls := rfl
@[simp] theorem State.countUnknown_reg (q : Nibble) : (s.countUnknown).reg q = s.reg q := rfl

/-! ### `State.raise` -/

@[simp] theorem State.raise_v (k : FaultKind) (a : Nat) : (s.raise k a).v = s.v := rfl
@[simp] theorem State.raise_i (k : FaultKind) (a : Nat) : (s.raise k a).i = s.i := rfl
@[simp] theorem State.raise_pc (k : FaultKind) (a : Nat) : (s.raise k a).pc = s.pc := rfl
@[simp] theorem State.raise_sp (k : FaultKind) (a : Nat) : (s.raise k a).sp = s.sp := rfl
@[simp] theorem State.raise_stack (k : FaultKind) (a : Nat) : (s.raise k a).stack = s.stack := rfl
@[simp] theorem State.raise_dt (k : FaultKind) (a : Nat) : (s.raise k a).dt = s.dt := rfl
@[simp] theorem State.raise_st (k : FaultKind) (a : Nat) : (s.raise k a).st = s.st := rfl
@[simp] theorem State.raise_timerAcc (k : FaultKind) (a : Nat) : (s.raise k a).timerAcc = s.timerAcc := rfl
@[simp] theorem State.raise_mem (k : FaultKind) (a : Nat) : (s.raise k a).mem = s.mem := rfl
@[simp] theorem State.raise_display (k : FaultKind) (a : Nat) : (s.raise k a).display = s.display := rfl
@[simp] theorem State.raise_keyLatch (k : FaultKind) (a : Nat) : (s.raise k a).keyLatch = s.keyLatch := rfl
@[simp] theorem State.raise_prevLatch (k : FaultKind) (a : Nat) : (s.raise k a).prevLatch = s.prevLatch := rfl
@[simp] theorem State.raise_runState (k : FaultKind) (a : Nat) : (s.raise k a).runState = .halted := rfl
@[simp] theorem State.raise_fault (k : FaultKind) (a : Nat) : (s.raise k a).fault = some { kind := k, pcAt := s.pc, addr := BitVec.ofNat 17 a } := rfl
@[simp] theorem State.raise_unknownCount (k : FaultKind) (a : Nat) : (s.raise k a).unknownCount = s.unknownCount := rfl
@[simp] theorem State.raise_rnd (k : FaultKind) (a : Nat) : (s.raise k a).rnd = s.rnd := rfl
@[simp] theorem State.raise_pending (k : FaultKind) (a : Nat) : (s.raise k a).pending = s.pending := rfl
@[simp] theorem State.raise_hostCalls (k : FaultKind) (a : Nat) : (s.raise k a).hostCalls = s.hostCalls := rfl
@[simp] theorem State.raise_reg (k : FaultKind) (a : Nat) (q : Nibble) : (s.raise k a).reg q = s.reg q := rfl

/-! ### `State.tookCall` -/

@[simp] theorem State.tookCall_v : (s.tookCall).v = s.v := rfl
@[simp] theorem State.tookCall_i : (s.tookCall).i = s.i := rfl
@[simp] theorem State.tookCall_pc : (s.tookCall).pc = s.pc := rfl
@[simp] theorem State.tookCall_sp : (s.tookCall).sp = s.sp := rfl
@[simp] theorem State.tookCall_stack : (s.tookCall).stack = s.stack := rfl
@[simp] theorem State.tookCall_dt : (s.tookCall).dt = s.dt := rfl
@[simp] theorem State.tookCall_st : (s.tookCall).st = s.st := rfl
@[simp] theorem State.tookCall_timerAcc : (s.tookCall).timerAcc = s.timerAcc := rfl
@[simp] theorem State.tookCall_mem : (s.tookCall).mem = s.mem := rfl
@[simp] theorem State.tookCall_display : (s.tookCall).display = s.display := rfl
@[simp] theorem State.tookCall_keyLatch : (s.tookCall).keyLatch = s.keyLatch := rfl
@[simp] theorem State.tookCall_prevLatch : (s.tookCall).prevLatch = s.prevLatch := rfl
@[simp] theorem State.tookCall_runState : (s.tookCall).runState = s.runState := rfl
@[simp] theorem State.tookCall_fault : (s.tookCall).fault = s.fault := rfl
@[simp] theorem State.tookCall_unknownCount : (s.tookCall).unknownCount = s.unknownCount := rfl
@[simp] theorem State.tookCall_rnd : (s.tookCall).rnd = s.rnd := rfl
@[simp] theorem State.tookCall_pending : (s.tookCall).pending = s.pending.tail := rfl
@[simp] theorem State.tookCall_hostCalls : (s.tookCall).hostCalls = s.hostCalls + 1 := rfl
@[simp] theorem State.tookCall_reg (q : Nibble) : (s.tookCall).reg q = s.reg q := rfl

end Sys2Proof.Machine
end

