-- ==== Sys2Proof/Laws/Ops.lean ====
section
/-!
SUPPORT. One lemma per shared operation that says once everything it can do: the flag writers, the stack, effective
addresses and their check, the register block.
-/

namespace Sys2Proof.Machine

variable (s : State)

/-! ### A result and a flag -/

/-- The flag wins where the destination is VF (42_alu.md R140). -/
@[simp] theorem State.setResultFlag_reg (x : Nibble) (b : Byte) (f : Bool) (q : Nibble) :
    (s.setResultFlag x b f).reg q = if q = vf then flagByte f else if q = x then b else s.reg q := by
  simp [State.setResultFlag]

@[simp] theorem State.setResultFlag_i (x : Nibble) (b : Byte) (f : Bool) : (s.setResultFlag x b f).i = s.i := rfl
@[simp] theorem State.setResultFlag_pc (x : Nibble) (b : Byte) (f : Bool) : (s.setResultFlag x b f).pc = s.pc := rfl
@[simp] theorem State.setResultFlag_sp (x : Nibble) (b : Byte) (f : Bool) : (s.setResultFlag x b f).sp = s.sp := rfl
@[simp] theorem State.setResultFlag_stack (x : Nibble) (b : Byte) (f : Bool) : (s.setResultFlag x b f).stack = s.stack := rfl
@[simp] theorem State.setResultFlag_dt (x : Nibble) (b : Byte) (f : Bool) : (s.setResultFlag x b f).dt = s.dt := rfl
@[simp] theorem State.setResultFlag_st (x : Nibble) (b : Byte) (f : Bool) : (s.setResultFlag x b f).st = s.st := rfl
@[simp] theorem State.setResultFlag_timerAcc (x : Nibble) (b : Byte) (f : Bool) : (s.setResultFlag x b f).timerAcc = s.timerAcc := rfl
@[simp] theorem State.setResultFlag_mem (x : Nibble) (b : Byte) (f : Bool) : (s.setResultFlag x b f).mem = s.mem := rfl
@[simp] theorem State.setResultFlag_display (x : Nibble) (b : Byte) (f : Bool) : (s.setResultFlag x b f).display = s.display := rfl
@[simp] theorem State.setResultFlag_keyLatch (x : Nibble) (b : Byte) (f : Bool) : (s.setResultFlag x b f).keyLatch = s.keyLatch := rfl
@[simp] theorem State.setResultFlag_prevLatch (x : Nibble) (b : Byte) (f : Bool) : (s.setResultFlag x b f).prevLatch = s.prevLatch := rfl
@[simp] theorem State.setResultFlag_runState (x : Nibble) (b : Byte) (f : Bool) : (s.setResultFlag x b f).runState = s.runState := rfl
@[simp] theorem State.setResultFlag_fault (x : Nibble) (b : Byte) (f : Bool) : (s.setResultFlag x b f).fault = s.fault := rfl
@[simp] theorem State.setResultFlag_unknownCount (x : Nibble) (b : Byte) (f : Bool) : (s.setResultFlag x b f).unknownCount = s.unknownCount := rfl
@[simp] theorem State.setResultFlag_rnd (x : Nibble) (b : Byte) (f : Bool) : (s.setResultFlag x b f).rnd = s.rnd := rfl
@[simp] theorem State.setResultFlag_pending (x : Nibble) (b : Byte) (f : Bool) : (s.setResultFlag x b f).pending = s.pending := rfl
@[simp] theorem State.setResultFlag_hostCalls (x : Nibble) (b : Byte) (f : Bool) : (s.setResultFlag x b f).hostCalls = s.hostCalls := rfl

theorem flagByte_toNat (f : Bool) : (flagByte f).toNat = if f then 1 else 0 := by
  cases f <;> rfl

/-! ### The stack -/

theorem State.pushReturn_sp_val (a : Word) (lt : s.sp.val < 16) : (s.pushReturn a).sp.val = s.sp.val + 1 := by
  simp only [State.pushReturn_sp, Fin.ofNat, Nat.mod_eq_of_lt (show s.sp.val + 1 < 17 by omega)]

theorem State.popReturn_sp_val : s.popReturn.sp.val = s.sp.val - 1 := by
  simp only [State.popReturn_sp, Fin.ofNat, Nat.mod_eq_of_lt (show s.sp.val - 1 < 17 by omega)]

/-- The entry just pushed is on top (10_state.md R28). -/
theorem State.pushReturn_stackTop (a : Word) (lt : s.sp.val < 16) : (s.pushReturn a).stackTop = a := by
  have h := s.pushReturn_sp_val a lt
  have h' : (s.pushReturn a).sp.val - 1 = s.sp.val := by omega
  simp only [State.stackTop, h', State.pushReturn_stack, Vector.getElem_setIfInBounds_self]

theorem State.pushReturn_stack_get (a : Word) (k : Nat) (lt : k < 16) :
    (s.pushReturn a).stack[k] = if k = s.sp.val then a else s.stack[k] := by
  simp [Vector.getElem_setIfInBounds, eq_comm (a := k)]

/-! ### Effective addresses -/

theorem State.ea_eq (k : Nat) : s.ea k = s.ea 0 + k := by
  simp [State.ea]

/-- The mask keeps the base inside memory (20_memory.md R54). -/
theorem State.ea_zero_le : s.ea 0 ≤ 0xFFF := by
  simp only [State.ea, BitVec.toNat_and, Nat.add_zero]
  exact Nat.and_le_right

/-- The mask never changes a value of I within 12 bits (10_state.md R24). -/
theorem State.ea_of_index_le (h : s.i.toNat ≤ 0xFFF) (k : Nat) : s.ea k = s.i.toNat + k := by
  have := Nat.and_two_pow_sub_one_eq_mod s.i.toNat 12
  simp only [State.ea, BitVec.toNat_and]
  norm_num at this ⊢
  rw [this, Nat.mod_eq_of_lt (by omega)]

/-- The check finds nothing where the last byte exists, and otherwise address 0x1000, the lowest that does not
(20_memory.md R56). -/
theorem State.firstOutOfRange_eq (count : Nat) :
    s.firstOutOfRange count = if s.ea 0 + count ≤ 0x1000 then none else some 0x1000 := by
  have le := s.ea_zero_le
  induction count with
  | zero => simp [State.firstOutOfRange]; omega
  | succ n ih =>
    unfold State.firstOutOfRange at ih ⊢
    rw [List.range_succ, List.map_append, List.find?_append, ih]
    by_cases h : s.ea 0 + n ≤ 0x1000
    · rw [if_pos h, Option.none_or, List.map_singleton, List.find?_singleton, s.ea_eq n]
      by_cases h' : s.ea 0 + (n + 1) ≤ 0x1000
      · have hin : ¬ Config.memTop < s.ea 0 + n := by simp only [Config.memTop]; omega
        simp [h', hin]
      · have heq : s.ea 0 + n = 0x1000 := by omega
        simp [h', heq, Config.memTop]
    · rw [if_neg h, if_neg (by omega)]; rfl

theorem State.guardAddresses_of_fits {count : Nat} (h : s.ea 0 + count ≤ 0x1000) (t : State) :
    s.guardAddresses count t = t := by
  rw [State.guardAddresses, State.firstOutOfRange_eq, if_pos h]

theorem State.guardAddresses_of_overrun {count : Nat} (h : 0x1000 < s.ea 0 + count) (t : State) :
    s.guardAddresses count t = s.raise .outOfBounds 0x1000 := by
  rw [State.guardAddresses, State.firstOutOfRange_eq, if_neg (by omega)]

/-- What a checked access answers: its effect, or OutOfBounds at 0x1000 with nothing else done (20_memory.md R56). -/
theorem State.guardAddresses_cases (count : Nat) (t : State) :
    (s.ea 0 + count ≤ 0x1000 ∧ s.guardAddresses count t = t) ∨
      (0x1000 < s.ea 0 + count ∧ s.guardAddresses count t = s.raise .outOfBounds 0x1000) := by
  by_cases h : s.ea 0 + count ≤ 0x1000
  · exact .inl ⟨h, s.guardAddresses_of_fits h t⟩
  · exact .inr ⟨by omega, s.guardAddresses_of_overrun (by omega) t⟩

@[simp] theorem State.bytesAtIndex_length (count : Nat) : (s.bytesAtIndex count).length = count := by
  simp [State.bytesAtIndex]

@[simp] theorem State.bytesAtIndex_get (count k : Nat) (h : k < (s.bytesAtIndex count).length) :
    (s.bytesAtIndex count)[k] = s.mem.read (s.ea k) := by
  simp [State.bytesAtIndex]

@[simp] theorem State.regBlock_length (x : Nibble) : (s.regBlock x).length = x.toNat + 1 := by
  simp [State.regBlock]

@[simp] theorem State.regBlock_get (x : Nibble) (k : Nat) (h : k < (s.regBlock x).length) :
    (s.regBlock x)[k] = s.reg (BitVec.ofNat 4 k) := by
  simp [State.regBlock]

@[simp] theorem bcdDigits_length (b : Byte) : (bcdDigits b).length = 3 := rfl

/-- The low nibble of a byte, as a natural (41_control_flow.md R130, 43_index_memory.md R162). -/
theorem lowNibble_toNat (b : Byte) : (b &&& 0x0F#8).toNat = b.toNat % 16 := by
  simpa using Nat.and_two_pow_sub_one_eq_mod b.toNat 4

theorem keyIndex_eq (b : Byte) : keyIndex b = b.toNat % 16 := lowNibble_toNat b

/-- A glyph address is at most 0x04B (43_index_memory.md R162). -/
theorem glyphAddress_toNat (b : Byte) : (glyphAddress b).toNat = b.toNat % 16 * 5 := by
  have := Nat.mod_lt b.toNat (show 0 < 16 by decide)
  rw [glyphAddress, lowNibble_toNat, BitVec.toNat_ofNat, Config.fontBase, Config.fontGlyphBytes, Nat.zero_add]
  exact Nat.mod_eq_of_lt (by omega)

/-! ### The block load -/

/-- A block load changes general registers only. -/
theorem State.loadRegs_frame (k : Nat) (bytes : List Byte) :
    s.loadRegs k bytes = { s with v := (s.loadRegs k bytes).v } := by
  induction bytes generalizing s k with
  | nil => rfl
  | cons b rest ih => rw [State.loadRegs, ih]; rfl

@[simp] theorem State.loadRegs_i (k : Nat) (bytes : List Byte) : (s.loadRegs k bytes).i = s.i := by
  rw [State.loadRegs_frame]

@[simp] theorem State.loadRegs_pc (k : Nat) (bytes : List Byte) : (s.loadRegs k bytes).pc = s.pc := by
  rw [State.loadRegs_frame]

@[simp] theorem State.loadRegs_sp (k : Nat) (bytes : List Byte) : (s.loadRegs k bytes).sp = s.sp := by
  rw [State.loadRegs_frame]

@[simp] theorem State.loadRegs_stack (k : Nat) (bytes : List Byte) : (s.loadRegs k bytes).stack = s.stack := by
  rw [State.loadRegs_frame]

@[simp] theorem State.loadRegs_dt (k : Nat) (bytes : List Byte) : (s.loadRegs k bytes).dt = s.dt := by
  rw [State.loadRegs_frame]

@[simp] theorem State.loadRegs_st (k : Nat) (bytes : List Byte) : (s.loadRegs k bytes).st = s.st := by
  rw [State.loadRegs_frame]

@[simp] theorem State.loadRegs_timerAcc (k : Nat) (bytes : List Byte) : (s.loadRegs k bytes).timerAcc = s.timerAcc := by
  rw [State.loadRegs_frame]

@[simp] theorem State.loadRegs_mem (k : Nat) (bytes : List Byte) : (s.loadRegs k bytes).mem = s.mem := by
  rw [State.loadRegs_frame]

@[simp] theorem State.loadRegs_display (k : Nat) (bytes : List Byte) : (s.loadRegs k bytes).display = s.display := by
  rw [State.loadRegs_frame]

@[simp] theorem State.loadRegs_keyLatch (k : Nat) (bytes : List Byte) : (s.loadRegs k bytes).keyLatch = s.keyLatch := by
  rw [State.loadRegs_frame]

@[simp] theorem State.loadRegs_prevLatch (k : Nat) (bytes : List Byte) : (s.loadRegs k bytes).prevLatch = s.prevLatch := by
  rw [State.loadRegs_frame]

@[simp] theorem State.loadRegs_runState (k : Nat) (bytes : List Byte) : (s.loadRegs k bytes).runState = s.runState := by
  rw [State.loadRegs_frame]

@[simp] theorem State.loadRegs_fault (k : Nat) (bytes : List Byte) : (s.loadRegs k bytes).fault = s.fault := by
  rw [State.loadRegs_frame]

@[simp] theorem State.loadRegs_unknownCount (k : Nat) (bytes : List Byte) : (s.loadRegs k bytes).unknownCount = s.unknownCount := by
  rw [State.loadRegs_frame]

@[simp] theorem State.loadRegs_rnd (k : Nat) (bytes : List Byte) : (s.loadRegs k bytes).rnd = s.rnd := by
  rw [State.loadRegs_frame]

@[simp] theorem State.loadRegs_pending (k : Nat) (bytes : List Byte) : (s.loadRegs k bytes).pending = s.pending := by
  rw [State.loadRegs_frame]

@[simp] theorem State.loadRegs_hostCalls (k : Nat) (bytes : List Byte) : (s.loadRegs k bytes).hostCalls = s.hostCalls := by
  rw [State.loadRegs_frame]

/-- A block load within the register file puts byte `k` of the list into register `k` (43_index_memory.md R165). -/
theorem State.loadRegs_reg (k : Nat) (bytes : List Byte) (fits : k + bytes.length ≤ 16) (q : Nibble) :
    (s.loadRegs k bytes).reg q =
      if h : k ≤ q.toNat ∧ q.toNat - k < bytes.length then bytes[q.toNat - k] else s.reg q := by
  induction bytes generalizing s k with
  | nil => simp [State.loadRegs]
  | cons b rest ih =>
    simp only [List.length_cons] at fits ⊢
    have hk : (BitVec.ofNat 4 k).toNat = k := by simp; omega
    have hq : q = BitVec.ofNat 4 k ↔ q.toNat = k := by rw [← BitVec.toNat_inj, hk]
    rw [State.loadRegs, ih _ _ (by omega), State.setReg_reg]
    by_cases h : q.toNat = k
    · rw [dif_neg (by omega), if_pos (hq.2 h), dif_pos (by omega)]
      simp [h]
    · by_cases hin : k + 1 ≤ q.toNat ∧ q.toNat - (k + 1) < rest.length
      · rw [dif_pos hin, dif_pos (by omega)]
        simp only [show q.toNat - k = (q.toNat - (k + 1)) + 1 by omega, List.getElem_cons_succ]
      · rw [dif_neg hin, dif_neg (by omega), if_neg (fun e => h (hq.1 e))]

end Sys2Proof.Machine
end

