-- ==== Sys2Proof/Laws/Display.lean ====
section
/-!
SUPPORT. What a draw does to the display: each plotted cell flips once for each time it is plotted, and a hit is
noted where a plotted cell was on; the cells a sprite plots, and that under wrap they are distinct
(44_display.md R172).
-/

namespace Sys2Proof.Machine

/-- Flipping a cell of the screen changes that cell and no other. -/
theorem Screen.flip_cell (d : Screen) {c j : Nat} (hc : c < 2048) (hj : j < 2048) :
    (d.flip c).cell j = (d.cell j ^^ decide (j = c)) := by
  have hc' : c / 64 < 32 := by omega
  have hj' : j / 64 < 32 := by omega
  simp only [Screen.cell, Screen.flip, Vector.getElem?_eq_getElem hc', Vector.getElem?_eq_getElem hj',
    Option.getD_some, Vector.getElem_setIfInBounds]
  by_cases hr : c / 64 = j / 64
  · have hb : j % 64 < 64 := Nat.mod_lt _ (by decide)
    simp only [hr, if_true, BitVec.getLsbD_xor, BitVec.getLsbD_shiftLeft, BitVec.getLsbD_one, hb, decide_true,
      Bool.true_and]
    congr 1
    rw [Bool.eq_iff_iff]
    simp only [Bool.and_eq_true, Bool.not_eq_true', decide_eq_false_iff_not, decide_eq_true_eq]
    omega
  · rw [if_neg hr]
    have : j ≠ c := fun e => hr (by rw [e])
    simp [this]

/-- Two screens with the same 2048 cells are equal. -/
theorem Screen.ext_cell {d e : Screen} (h : ∀ j, j < 2048 → d.cell j = e.cell j) : d = e := by
  apply Vector.ext
  intro r hr
  apply BitVec.eq_of_getLsbD_eq
  intro b hb
  have := h (r * 64 + b) (by omega)
  have hd : (r * 64 + b) / 64 = r := by omega
  have hm : (r * 64 + b) % 64 = b := by omega
  simpa [Screen.cell, hd, hm, hr] using this

@[simp] theorem Screen.clear_cell (j : Nat) : Screen.clear.cell j = false := by
  by_cases h : j / 64 < 32
  · simp [Screen.cell, Screen.clear, h]
  · simp [Screen.cell, Screen.clear, h]

theorem Canvas.plot_display_get (k : Canvas) {cell j : Nat} (hc : cell < 2048) (lt : j < 2048) :
    (k.plot cell).display.cell j = (k.display.cell j ^^ decide (j = cell)) :=
  k.display.flip_cell hc lt

/-- Plotting distinct cells flips exactly those, and hits exactly if one of them was on. -/
theorem foldl_plot (cells : List Nat) (distinct : cells.Nodup) (inside : ∀ c ∈ cells, c < 2048) (k : Canvas) :
    (∀ j, j < 2048 → (cells.foldl Canvas.plot k).display.cell j = (k.display.cell j ^^ decide (j ∈ cells))) ∧
      ((cells.foldl Canvas.plot k).hit = true ↔ k.hit = true ∨ ∃ c ∈ cells, k.display.cell c = true) := by
  induction cells generalizing k with
  | nil => simp
  | cons c rest ih =>
    have hn := List.nodup_cons.1 distinct
    have lt : c < 2048 := inside c List.mem_cons_self
    obtain ⟨hd, hh⟩ := ih hn.2 (fun e he => inside e (List.mem_cons_of_mem _ he)) (k.plot c)
    refine ⟨fun j hj => ?_, ?_⟩
    · rw [List.foldl_cons, hd j hj, Canvas.plot_display_get k lt hj, Bool.xor_assoc]
      congr 1
      by_cases e : j = c
      · subst e; simp [hn.1]
      · simp [e]
    · rw [List.foldl_cons, hh]
      simp only [Canvas.plot, Bool.or_eq_true, List.mem_cons]
      constructor
      · rintro ((h | h) | ⟨e, he, hon⟩)
        · exact .inl h
        · exact .inr ⟨c, .inl rfl, h⟩
        · refine .inr ⟨e, .inr he, ?_⟩
          have := Canvas.plot_display_get k lt (inside e (List.mem_cons_of_mem _ he))
          rw [Canvas.plot] at this
          rw [this] at hon
          have ne : e ≠ c := fun h => hn.1 (h ▸ he)
          simpa [ne] using hon
      · rintro (h | ⟨e, rfl | he, hon⟩)
        · exact .inl (.inl h)
        · exact .inl (.inr hon)
        · refine .inr ⟨e, he, ?_⟩
          have := Canvas.plot_display_get k lt (inside e (List.mem_cons_of_mem _ he))
          rw [Canvas.plot] at this
          have ne : e ≠ c := fun h => hn.1 (h ▸ he)
          rw [this]
          simpa [ne] using hon

/-- What a draw of distinct cells leaves on the display (44_display.md R172). -/
theorem drawCells_display (d : Screen) (cells : List Nat) (distinct : cells.Nodup)
    (inside : ∀ c ∈ cells, c < 2048) {j : Nat} (lt : j < 2048) :
    (drawCells d cells).display.cell j = (d.cell j ^^ decide (j ∈ cells)) :=
  (foldl_plot cells distinct inside { display := d, hit := false }).1 j lt

/-- When a draw of distinct cells notes a hit (44_display.md R172). -/
theorem drawCells_hit (d : Screen) (cells : List Nat) (distinct : cells.Nodup) (inside : ∀ c ∈ cells, c < 2048) :
    (drawCells d cells).hit = true ↔ ∃ c ∈ cells, d.cell c = true := by
  rw [drawCells, (foldl_plot cells distinct inside _).2]
  simp

theorem mem_rowCells (x0 y0 r : Nat) (row : Byte) (j : Nat) :
    j ∈ rowCells .wrap x0 y0 r row ↔
      ∃ c, c < 8 ∧ spriteBit row c = true ∧ j = cellIndex ((x0 + c) % 64) ((y0 + r) % 32) := by
  simp only [rowCells, List.mem_filterMap, List.mem_filter, List.mem_range, spriteCell, Config.displayW,
    Config.displayH, Option.some.injEq]
  constructor
  · rintro ⟨c, ⟨h, hb⟩, rfl⟩; exact ⟨c, h, hb, rfl⟩
  · rintro ⟨c, h, hb, rfl⟩; exact ⟨c, ⟨h, hb⟩, rfl⟩

/-- The cells a sprite plots under wrap: one for each set bit of each row (44_display.md R170). -/
theorem mem_spriteCells (x0 y0 r : Nat) (rows : List Byte) (j : Nat) :
    j ∈ spriteCells .wrap x0 y0 r rows ↔
      ∃ k, ∃ _ : k < rows.length, ∃ c, c < 8 ∧ spriteBit rows[k] c = true ∧
        j = cellIndex ((x0 + c) % 64) ((y0 + (r + k)) % 32) := by
  induction rows generalizing r with
  | nil => simp [spriteCells]
  | cons row rest ih =>
    rw [spriteCells, List.mem_append, mem_rowCells, ih]
    constructor
    · rintro (⟨c, hc, hb, rfl⟩ | ⟨k, hk, c, hc, hb, rfl⟩)
      · exact ⟨0, by simp, c, hc, by simpa using hb, by simp⟩
      · exact ⟨k + 1, by simpa using hk, c, hc, by simpa using hb, by rw [show r + 1 + k = r + (k + 1) by omega]⟩
    · rintro ⟨k, hk, c, hc, hb, rfl⟩
      cases k with
      | zero => exact .inl ⟨c, hc, by simpa using hb, by simp⟩
      | succ k =>
        exact .inr ⟨k, by simpa using hk, c, hc, by simpa using hb, by rw [show r + 1 + k = r + (k + 1) by omega]⟩

/-- Cells inside the screen are named apart by their index (10_state.md R34). -/
theorem cellIndex_inj {x y x' y' : Nat} (hx : x < 64) (hx' : x' < 64) (h : cellIndex x y = cellIndex x' y') :
    x = x' ∧ y = y' := by
  simp only [cellIndex, Config.displayW] at h
  omega

theorem cellIndex_lt {x y : Nat} (hx : x < 64) (hy : y < 32) : cellIndex x y < 2048 := by
  simp only [cellIndex, Config.displayW]
  omega

theorem spriteCells_inside (x0 y0 r : Nat) (rows : List Byte) :
    ∀ j ∈ spriteCells .wrap x0 y0 r rows, j < 2048 := by
  intro j hj
  obtain ⟨k, _, c, _, _, rfl⟩ := (mem_spriteCells ..).1 hj
  exact cellIndex_lt (Nat.mod_lt _ (by decide)) (Nat.mod_lt _ (by decide))

theorem rowCells_nodup (x0 y0 r : Nat) (row : Byte) : (rowCells .wrap x0 y0 r row).Nodup := by
  have eq : spriteCell .wrap x0 y0 r = some ∘ fun c => cellIndex ((x0 + c) % 64) ((y0 + r) % 32) := rfl
  rw [rowCells, eq, List.filterMap_eq_map]
  refine List.Nodup.map_on (fun c hc c' hc' e => ?_) (List.nodup_range.filter _)
  have lt := List.mem_range.1 (List.mem_filter.1 hc).1
  have lt' := List.mem_range.1 (List.mem_filter.1 hc').1
  have := (cellIndex_inj (Nat.mod_lt _ (by decide)) (Nat.mod_lt _ (by decide)) e).1
  omega

/-- The cells one draw touches are distinct: at most 8 columns of 64 and 16 rows of 32 (44_display.md R172). -/
theorem spriteCells_nodup (x0 y0 r : Nat) (rows : List Byte) (le : rows.length ≤ 32) :
    (spriteCells .wrap x0 y0 r rows).Nodup := by
  induction rows generalizing r with
  | nil => simp [spriteCells]
  | cons row rest ih =>
    simp only [List.length_cons] at le
    rw [spriteCells, List.nodup_append]
    refine ⟨?_, ih (r + 1) (by omega), ?_⟩
    · exact rowCells_nodup x0 y0 r row
    · intro j hj j' hj' e
      obtain ⟨c, _, _, rfl⟩ := (mem_rowCells ..).1 hj
      obtain ⟨k, hk, c', _, _, rfl⟩ := (mem_spriteCells ..).1 hj'
      have := cellIndex_inj (Nat.mod_lt _ (by decide)) (Nat.mod_lt _ (by decide)) e
      omega

end Sys2Proof.Machine
end

