-- ==== Sys2Proof/Laws/Cycle.lean ====
section
/-!
SUPPORT. One lemma per part of the cycle: the fetch window, the latch update, the wait, the timers, the host's
transactions, and that every instruction answers a next state.
-/

namespace Sys2Proof.Machine

variable (s : State)

/-! ### Fetch -/

/-- The fetch window (40_cycle.md R101). -/
theorem fetchViolation_eq_none (pc : Word) : fetchViolation pc = none ↔ 0x200 ≤ pc.toNat ∧ pc.toNat ≤ 0xFFE := by
  unfold fetchViolation
  split
  case isTrue h =>
    simp only [Config.fetchLo, Config.fetchHi] at h
    simp only [List.find?_eq_none, List.mem_cons, List.not_mem_nil, or_false, decide_eq_true_eq, forall_eq_or_imp,
      forall_eq, Config.fetchLo, Config.memTop]
    omega
  case isFalse h =>
    simp only [Config.fetchLo, Config.fetchHi] at h
    simp only [true_iff]
    omega

/-- Outside the window the address reported is pc itself, but for pc = 0xFFF, whose second byte is the one outside
(40_cycle.md R101). -/
theorem fetchViolation_eq_some (pc : Word) (out : pc.toNat < 0x200 ∨ 0xFFE < pc.toNat) :
    fetchViolation pc = some (if pc.toNat = 0xFFF then 0x1000 else pc.toNat) := by
  rw [fetchViolation, if_pos out]
  by_cases h : pc.toNat = 0xFFF
  · simp [h]
  · have : pc.toNat < 0x200 ∨ 0xFFF < pc.toNat := by omega
    simp [h, this]

theorem fetchExecute_of_violation {a : Nat} (h : fetchViolation s.pc = some a) :
    fetchExecute s = .next (s.raise .outOfBounds a) := by
  simp [fetchExecute, h]

theorem fetchExecute_of_window (h : fetchViolation s.pc = none) :
    fetchExecute s = execute (decode s.fetchWord).uop s := by
  simp [fetchExecute, h]

@[simp] theorem State.latchInputs_fetchWord (keys : Word) (b : Byte) :
    (s.latchInputs keys b).fetchWord = s.fetchWord := rfl

@[simp] theorem State.tookCall_fetchWord : s.tookCall.fetchWord = s.fetchWord := rfl

/-! ### `cpu_step` -/

theorem cpuStep_halted (keys : Word) (b : Byte) (h : s.runState = .halted) : cpuStep keys b s = .next s := by
  simp [cpuStep, h]

theorem cpuStep_awaitingKey (keys : Word) (b : Byte) {r : Nibble} (h : s.runState = .awaitingKey r) :
    cpuStep keys b s = .next ((s.latchInputs keys b).waitStep r) := by
  simp [cpuStep, h]

theorem cpuStep_running (keys : Word) (b : Byte) (h : s.runState = .running) :
    cpuStep keys b s = fetchExecute (s.latchInputs keys b) := by
  simp [cpuStep, h]

/-! ### The wait -/

theorem lowestBit_eq_none (w : Word) : lowestBit w = none ↔ w = 0 := by
  simp only [lowestBit, List.find?_eq_none, List.mem_range]
  constructor
  · intro h
    apply BitVec.eq_of_getLsbD_eq
    intro k hk
    simpa using h k hk
  · rintro rfl k _
    simp

theorem lowestBit_eq_some (w : Word) (k : Nat) :
    lowestBit w = some k ↔ k < 16 ∧ w.getLsbD k = true ∧ ∀ j < k, w.getLsbD j = false := by
  simp only [lowestBit, List.find?_range_eq_some, List.mem_range]
  constructor
  · rintro ⟨h, lt, low⟩
    exact ⟨lt, h, fun j hj => by simpa using low j hj⟩
  · rintro ⟨lt, h, low⟩
    exact ⟨h, lt, fun j hj => by simpa using low j hj⟩

theorem State.waitStep_of_no_edge {r : Nibble} (h : lowestBit s.keyEdges = none) : s.waitStep r = s := by
  simp [State.waitStep, h]

theorem State.waitStep_of_edge {r : Nibble} {k : Nat} (h : lowestBit s.keyEdges = some k) :
    s.waitStep r = ((s.setReg r (BitVec.ofNat 8 k)).advance).setRunState .running := by
  simp [State.waitStep, h]

/-- What a cycle of the wait answers (45_timers_keys.md R185). -/
theorem State.waitStep_cases (r : Nibble) :
    (s.keyEdges = 0 ∧ s.waitStep r = s) ∨
      ∃ k, k < 16 ∧ s.keyEdges.getLsbD k = true ∧ (∀ j < k, s.keyEdges.getLsbD j = false) ∧
        s.waitStep r = ((s.setReg r (BitVec.ofNat 8 k)).advance).setRunState .running := by
  cases h : lowestBit s.keyEdges with
  | none => exact .inl ⟨(lowestBit_eq_none _).1 h, s.waitStep_of_no_edge h⟩
  | some k =>
    obtain ⟨lt, hk, low⟩ := (lowestBit_eq_some _ _).1 h
    exact .inr ⟨k, lt, hk, low, s.waitStep_of_edge h⟩

/-! ### The timers -/

/-- `k` ticks take `k` off a timer, clamped at 0 (60_exceptions.md R211). -/
theorem tickDown_toNat (t : Byte) (k : Nat) : (tickDown t k).toNat = t.toNat - k := by
  have := t.isLt
  unfold tickDown
  split
  · simp only [BitVec.toNat_ofNat]; omega
  · show 0 = t.toNat - k; omega

theorem State.timerStep_halted (units elapsed : Nat) (h : s.runState = .halted) : s.timerStep units elapsed = s := by
  simp [State.timerStep, h]

theorem State.timerStep_live (units elapsed : Nat) (h : s.runState ≠ .halted) :
    s.timerStep units elapsed =
      s.setTimers ((s.timerAcc + 60 * elapsed) % units) (tickDown s.dt ((s.timerAcc + 60 * elapsed) / units))
        (tickDown s.st ((s.timerAcc + 60 * elapsed) / units)) := by
  cases hr : s.runState <;> simp_all [State.timerStep]

theorem Config.timerUnits_pos : 0 < Config.timerUnitsPerSecond := Nat.succ_pos _

/-! ### The answers to the host -/

theorem State.cpuResult_halted (h : s.runState = .halted) : s.cpuResult = .halted s.fault := by
  simp [State.cpuResult, h]

theorem State.timerResult_halted (h : s.runState = .halted) : s.timerResult = some (.halted s.fault) := by
  simp [State.timerResult, h]

theorem State.timerResult_live (h : s.runState ≠ .halted) : s.timerResult = none := by
  cases hr : s.runState <;> simp_all [State.timerResult]

/-! ### The host's calls -/

theorem State.nextCall_of_pending {c : HostCall} {rest : List HostCall} (h : s.pending = c :: rest) :
    s.nextCall = c := by
  simp [State.nextCall, h]

theorem step_eq {c : HostCall} (h : s.nextCall = c) : step s = hostStep c s.tookCall := by
  rw [step, h]

theorem construct_of_fits (rom : List Byte) (h : rom.length ≤ 3584) :
    construct rom s = .next { State.reset with
      mem := Memory.image 0x200 rom, pending := s.pending, hostCalls := s.hostCalls } := by
  rw [construct, if_neg (by simp only [Config.progMax]; omega)]

/-! ### Every instruction answers a next state -/

/-- No instruction ends a run: each answers a next state from every state (60_exceptions.md R203 makes a fault one). -/
theorem exec_next (i : Instr) : ∃ t, exec i s = .next t := by
  cases i
  case ret => simp only [exec, execRet]; split <;> exact ⟨_, rfl⟩
  case call => simp only [exec, execCall]; split <;> exact ⟨_, rfl⟩
  all_goals exact ⟨_, rfl⟩

theorem execute_next (u : MicroOp) : ∃ t, execute u s = .next t := by
  cases u with
  | known i => exact exec_next s i
  | unknown w => exact ⟨_, rfl⟩

end Sys2Proof.Machine
end

