-- ==== Sys2Proof/Laws/PerInstr.lean ====
section
/-!
SUPPORT. Statements for all instructions, one lemma per constructor. EncodingPattern: an instruction's word has its
row's fixed bits, `word & mask == match` (30_encoding.md R73).
-/

namespace Sys2Proof.Laws.EncodingPattern

/-- The encoded word is selected by the instruction's own row (30_encoding.md R73, R83). -/
def Statement (i : Instr) : Prop := encode i &&& i.rowMask = i.rowMatch

/-- Format A: the mask keeps the primary selector (30_encoding.md R72). -/
theorem mask_address (p : Nibble) (a : Addr) : (p ++ a) &&& 0xF000#16 = p ++ 0#12 := by
  show (p ++ a) &&& (0xF#4 ++ 0x000#12) = p ++ 0#12
  rw [BitVec.and_append]
  congr 1
  · exact BitVec.and_allOnes
  · exact BitVec.and_zero

/-- Format XNN (30_encoding.md R72). -/
theorem mask_register_byte (p x : Nibble) (b : Byte) : (p ++ x ++ b) &&& 0xF000#16 = p ++ 0#4 ++ 0#8 := by
  show (p ++ x ++ b) &&& (0xF#4 ++ 0x0#4 ++ 0x00#8) = p ++ 0#4 ++ 0#8
  rw [BitVec.and_append, BitVec.and_append]
  congr 1
  · congr 1
    · exact BitVec.and_allOnes
    · exact BitVec.and_zero
  · exact BitVec.and_zero

/-- Format X: the mask keeps the selector byte (30_encoding.md R72). -/
theorem mask_register (p x : Nibble) (b : Byte) : (p ++ x ++ b) &&& 0xF0FF#16 = p ++ 0#4 ++ b := by
  show (p ++ x ++ b) &&& (0xF#4 ++ 0x0#4 ++ 0xFF#8) = p ++ 0#4 ++ b
  rw [BitVec.and_append, BitVec.and_append]
  congr 1
  · congr 1
    · exact BitVec.and_allOnes
    · exact BitVec.and_zero
  · exact BitVec.and_allOnes

/-- Format XY with a selector nibble (30_encoding.md R72). -/
theorem mask_registers_selector (p x y n : Nibble) :
    (p ++ x ++ y ++ n) &&& 0xF00F#16 = p ++ 0#4 ++ 0#4 ++ n := by
  show (p ++ x ++ y ++ n) &&& (0xF#4 ++ 0x0#4 ++ 0x0#4 ++ 0xF#4) = p ++ 0#4 ++ 0#4 ++ n
  rw [BitVec.and_append, BitVec.and_append, BitVec.and_append]
  congr 1
  · congr 1
    · congr 1
      · exact BitVec.and_allOnes
      · exact BitVec.and_zero
    · exact BitVec.and_zero
  · exact BitVec.and_allOnes

/-- Formats XY without a selector, and XYN (30_encoding.md R72). -/
theorem mask_registers (p x y n : Nibble) : (p ++ x ++ y ++ n) &&& 0xF000#16 = p ++ 0#4 ++ 0#4 ++ 0#4 := by
  show (p ++ x ++ y ++ n) &&& (0xF#4 ++ 0x0#4 ++ 0x0#4 ++ 0x0#4) = p ++ 0#4 ++ 0#4 ++ 0#4
  rw [BitVec.and_append, BitVec.and_append, BitVec.and_append]
  congr 1
  · congr 1
    · congr 1
      · exact BitVec.and_allOnes
      · exact BitVec.and_zero
    · exact BitVec.and_zero
  · exact BitVec.and_zero

theorem cls : Statement .cls := rfl

theorem ret : Statement .ret := rfl

theorem sys (nnn : Addr) : Statement (.sys nnn) := mask_address 0x0#4 nnn

theorem jp (nnn : Addr) : Statement (.jp nnn) := mask_address 0x1#4 nnn

theorem call (nnn : Addr) : Statement (.call nnn) := mask_address 0x2#4 nnn

theorem seImm (x : Nibble) (nn : Byte) : Statement (.seImm x nn) := mask_register_byte 0x3#4 x nn

theorem sneImm (x : Nibble) (nn : Byte) : Statement (.sneImm x nn) := mask_register_byte 0x4#4 x nn

theorem seReg (x y : Nibble) : Statement (.seReg x y) := mask_registers 0x5#4 x y 0x0#4

theorem ldImm (x : Nibble) (nn : Byte) : Statement (.ldImm x nn) := mask_register_byte 0x6#4 x nn

theorem addImm (x : Nibble) (nn : Byte) : Statement (.addImm x nn) := mask_register_byte 0x7#4 x nn

theorem ldReg (x y : Nibble) : Statement (.ldReg x y) := mask_registers_selector 0x8#4 x y 0x0#4

theorem orReg (x y : Nibble) : Statement (.orReg x y) := mask_registers_selector 0x8#4 x y 0x1#4

theorem andReg (x y : Nibble) : Statement (.andReg x y) := mask_registers_selector 0x8#4 x y 0x2#4

theorem xorReg (x y : Nibble) : Statement (.xorReg x y) := mask_registers_selector 0x8#4 x y 0x3#4

theorem addReg (x y : Nibble) : Statement (.addReg x y) := mask_registers_selector 0x8#4 x y 0x4#4

theorem subReg (x y : Nibble) : Statement (.subReg x y) := mask_registers_selector 0x8#4 x y 0x5#4

theorem shr (x : Nibble) : Statement (.shr x) := mask_registers_selector 0x8#4 x 0x0#4 0x6#4

theorem subnReg (x y : Nibble) : Statement (.subnReg x y) := mask_registers_selector 0x8#4 x y 0x7#4

theorem shl (x : Nibble) : Statement (.shl x) := mask_registers_selector 0x8#4 x 0x0#4 0xE#4

theorem sneReg (x y : Nibble) : Statement (.sneReg x y) := mask_registers 0x9#4 x y 0x0#4

theorem ldI (nnn : Addr) : Statement (.ldI nnn) := mask_address 0xA#4 nnn

theorem jpV0 (nnn : Addr) : Statement (.jpV0 nnn) := mask_address 0xB#4 nnn

theorem rnd (x : Nibble) (nn : Byte) : Statement (.rnd x nn) := mask_register_byte 0xC#4 x nn

theorem drw (x y n : Nibble) : Statement (.drw x y n) := mask_registers 0xD#4 x y n

theorem skp (x : Nibble) : Statement (.skp x) := mask_register 0xE#4 x 0x9E#8

theorem sknp (x : Nibble) : Statement (.sknp x) := mask_register 0xE#4 x 0xA1#8

theorem ldVxDt (x : Nibble) : Statement (.ldVxDt x) := mask_register 0xF#4 x 0x07#8

theorem ldVxK (x : Nibble) : Statement (.ldVxK x) := mask_register 0xF#4 x 0x0A#8

theorem ldDtVx (x : Nibble) : Statement (.ldDtVx x) := mask_register 0xF#4 x 0x15#8

theorem ldStVx (x : Nibble) : Statement (.ldStVx x) := mask_register 0xF#4 x 0x18#8

theorem addI (x : Nibble) : Statement (.addI x) := mask_register 0xF#4 x 0x1E#8

theorem ldF (x : Nibble) : Statement (.ldF x) := mask_register 0xF#4 x 0x29#8

theorem ldB (x : Nibble) : Statement (.ldB x) := mask_register 0xF#4 x 0x33#8

theorem ldMemVx (x : Nibble) : Statement (.ldMemVx x) := mask_register 0xF#4 x 0x55#8

theorem ldVxMem (x : Nibble) : Statement (.ldVxMem x) := mask_register 0xF#4 x 0x65#8

end Sys2Proof.Laws.EncodingPattern
end

