-- ==== Sys2Proof/Tests/Slice0.lean ====
section
/-!
SUPPORT. The model's own tests. Expected values are the spec's worked examples and vectors (95_test_vectors.md and
the rules' examples), named in each comment; the witnesses meet the hypotheses of the statements.
-/

namespace Sys2Proof.Tests

open Sys2Proof.Machine

/-! ## Well-formedness and decoding -/

/-- 30_encoding.md R75: 0x00E0 is CLS, so no SYS has that operand. -/
theorem test_wellFormed_refuses_sys_0E0 : (Instr.sys 0x0E0#12).wellFormed = false := by decide

/-- 30_encoding.md R75: 0x00EE is RET. -/
theorem test_wellFormed_refuses_sys_0EE : (Instr.sys 0x0EE#12).wellFormed = false := by decide

/-- 30_encoding.md R73, row 1. -/
theorem test_decode_cls : (decode 0x00E0#16).uop = .known .cls := by decide

/-- 30_encoding.md R73, row 2. -/
theorem test_decode_ret : (decode 0x00EE#16).uop = .known .ret := by decide

/-- 30_encoding.md R73, row 3. -/
theorem test_decode_sys : (decode 0x0123#16).uop = .known (.sys 0x123#12) := by decide

/-- 30_encoding.md R73, row 4. -/
theorem test_decode_jp : (decode 0x1ABC#16).uop = .known (.jp 0xABC#12) := by decide

/-- 30_encoding.md R73, row 5. -/
theorem test_decode_call : (decode 0x2300#16).uop = .known (.call 0x300#12) := by decide

/-- 30_encoding.md R73, row 6. -/
theorem test_decode_seImm : (decode 0x3342#16).uop = .known (.seImm 3#4 0x42#8) := by decide

/-- 30_encoding.md R73, row 7. -/
theorem test_decode_sneImm : (decode 0x4342#16).uop = .known (.sneImm 3#4 0x42#8) := by decide

/-- 30_encoding.md R73, row 8. -/
theorem test_decode_seReg : (decode 0x512F#16).uop = .known (.seReg 1#4 2#4) := by decide

/-- 30_encoding.md R73, row 9. -/
theorem test_decode_ldImm : (decode 0x600A#16).uop = .known (.ldImm 0#4 0x0A#8) := by decide

/-- 30_encoding.md R73, row 10. -/
theorem test_decode_addImm : (decode 0x7005#16).uop = .known (.addImm 0#4 0x05#8) := by decide

/-- 30_encoding.md R73, row 11. -/
theorem test_decode_ldReg : (decode 0x8120#16).uop = .known (.ldReg 1#4 2#4) := by decide

/-- 30_encoding.md R73, row 12. -/
theorem test_decode_orReg : (decode 0x8121#16).uop = .known (.orReg 1#4 2#4) := by decide

/-- 30_encoding.md R73, row 13. -/
theorem test_decode_andReg : (decode 0x8122#16).uop = .known (.andReg 1#4 2#4) := by decide

/-- 30_encoding.md R73, row 14. -/
theorem test_decode_xorReg : (decode 0x8123#16).uop = .known (.xorReg 1#4 2#4) := by decide

/-- 30_encoding.md R73, row 15. -/
theorem test_decode_addReg : (decode 0x8124#16).uop = .known (.addReg 1#4 2#4) := by decide

/-- 30_encoding.md R73, row 16. -/
theorem test_decode_subReg : (decode 0x8125#16).uop = .known (.subReg 1#4 2#4) := by decide

/-- 30_encoding.md R73, row 17. -/
theorem test_decode_shr : (decode 0x8AB6#16).uop = .known (.shr 0xA#4) := by decide

/-- 30_encoding.md R73, row 18. -/
theorem test_decode_subnReg : (decode 0x8127#16).uop = .known (.subnReg 1#4 2#4) := by decide

/-- 30_encoding.md R73, row 19. -/
theorem test_decode_shl : (decode 0x830E#16).uop = .known (.shl 3#4) := by decide

/-- 30_encoding.md R73, row 20. -/
theorem test_decode_sneReg : (decode 0x9AB7#16).uop = .known (.sneReg 0xA#4 0xB#4) := by decide

/-- 30_encoding.md R73, row 21. -/
theorem test_decode_ldI : (decode 0xA200#16).uop = .known (.ldI 0x200#12) := by decide

/-- 30_encoding.md R73, row 22. -/
theorem test_decode_jpV0 : (decode 0xB300#16).uop = .known (.jpV0 0x300#12) := by decide

/-- 30_encoding.md R73, row 23. -/
theorem test_decode_rnd : (decode 0xC10F#16).uop = .known (.rnd 1#4 0x0F#8) := by decide

/-- 30_encoding.md R73, row 24. -/
theorem test_decode_drw : (decode 0xD125#16).uop = .known (.drw 1#4 2#4 5#4) := by decide

/-- 30_encoding.md R73, row 25. -/
theorem test_decode_skp : (decode 0xE39E#16).uop = .known (.skp 3#4) := by decide

/-- 30_encoding.md R73, row 26. -/
theorem test_decode_sknp : (decode 0xE0A1#16).uop = .known (.sknp 0#4) := by decide

/-- 30_encoding.md R73, row 27. -/
theorem test_decode_ldVxDt : (decode 0xF307#16).uop = .known (.ldVxDt 3#4) := by decide

/-- 30_encoding.md R73, row 28. -/
theorem test_decode_ldVxK : (decode 0xF40A#16).uop = .known (.ldVxK 4#4) := by decide

/-- 30_encoding.md R73, row 29. -/
theorem test_decode_ldDtVx : (decode 0xF315#16).uop = .known (.ldDtVx 3#4) := by decide

/-- 30_encoding.md R73, row 30. -/
theorem test_decode_ldStVx : (decode 0xF318#16).uop = .known (.ldStVx 3#4) := by decide

/-- 30_encoding.md R73, row 31. -/
theorem test_decode_addI : (decode 0xF21E#16).uop = .known (.addI 2#4) := by decide

/-- 30_encoding.md R73, row 32. -/
theorem test_decode_ldF : (decode 0xF029#16).uop = .known (.ldF 0#4) := by decide

/-- 30_encoding.md R73, row 33. -/
theorem test_decode_ldB : (decode 0xF533#16).uop = .known (.ldB 5#4) := by decide

/-- 30_encoding.md R73, row 34. -/
theorem test_decode_ldMemVx : (decode 0xF055#16).uop = .known (.ldMemVx 0#4) := by decide

/-- 30_encoding.md R73, row 35. -/
theorem test_decode_ldVxMem : (decode 0xFF65#16).uop = .known (.ldVxMem 0xF#4) := by decide

/-- 95_test_vectors.md section 2.1. -/
theorem test_decode_unknown_8AB8 : (decode 0x8AB8#16).uop = .unknown 0x8AB8#16 := by decide

/-- 95_test_vectors.md section 2.1. -/
theorem test_decode_unknown_8ABF : (decode 0x8ABF#16).uop = .unknown 0x8ABF#16 := by decide

/-- 95_test_vectors.md section 2.1. -/
theorem test_decode_unknown_E3A2 : (decode 0xE3A2#16).uop = .unknown 0xE3A2#16 := by decide

/-- 95_test_vectors.md section 2.1. -/
theorem test_decode_unknown_F456 : (decode 0xF456#16).uop = .unknown 0xF456#16 := by decide

/-- 95_test_vectors.md section 2.1: 0x01E0 is SYS, not CLS. -/
theorem test_decode_01E0 : (decode 0x01E0#16).uop = .known (.sys 0x1E0#12) := by decide

/-- 95_test_vectors.md section 2.1, the row of 8AB6, fields included. -/
theorem test_decode_fields_8AB6 : decode 0x8AB6#16 =
    { uop := .known (.shr 0xA#4), x := 0xA, y := 0xB, n := 0x6, nn := 0xB6, nnn := 0xAB6, word := 0x8AB6 } := by
  decide

/-- The table's numbering: the high byte of a word is the one stored first (20_memory.md R52). -/
theorem test_decodeTableWord_600A : decodeTableWord 16 0x600A = some (.ldImm 0#4 0x0A#8) := by decide

/-! ## One instruction each -/

/-- The reset state with two registers set. -/
def with2 (x : Nibble) (a : Byte) (y : Nibble) (b : Byte) : State := (State.reset.setReg x a).setReg y b

/-- The state an instruction answers; the state itself where it answers none. -/
def after (i : Instr) (s : State) : State :=
  match exec i s with
  | .next t => t
  | .fault _ => s
  | .refused _ => s

/-- 95_test_vectors.md C1. -/
theorem test_jp : (after (.jp 0x456#12) State.reset).pc = 0x456 := by decide

/-- 95_test_vectors.md C6: a CALL at 0xFFE pushes 0x1000. -/
theorem test_call : let t := after (.call 0x400#12) { State.reset with pc := 0xFFE }
    t.stack[0] = 0x1000 ∧ t.sp = 1 ∧ t.pc = 0x400 := by decide

/-- 60_exceptions.md R201, 95_test_vectors.md P5. -/
theorem test_call_overflow : (after (.call 0x200#12) { State.reset with sp := 16 }).faultPort = some (1, 0x200, 0x200) := by decide

/-- 95_test_vectors.md C4: the popped entry stays. -/
theorem test_ret : let t := after .ret { State.reset with pc := 0x300, sp := 1, stack := State.reset.stack.set 0 0x202 }
    t.pc = 0x202 ∧ t.sp = 0 ∧ t.stack[0] = 0x202 := by decide

/-- 95_test_vectors.md C5. -/
theorem test_ret_underflow : let t := after .ret State.reset
    t.runState = .halted ∧ t.faultPort = some (2, 0x200, 0x200) ∧ t.pc = 0x200 ∧ t.sp = 0 := by decide

/-- 95_test_vectors.md C22. -/
theorem test_sys : let t := after (.sys 0x123#12) { State.reset with pc := 0x300 }
    t.pc = 0x302 ∧ t.unknownCount = 0 := by decide

/-- 95_test_vectors.md C7, C8. -/
theorem test_seImm : (after (.seImm 3#4 0x42#8) (State.reset.setReg 3#4 0x42)).pc = 0x204 ∧
    (after (.seImm 3#4 0x42#8) (State.reset.setReg 3#4 0x41)).pc = 0x202 := by decide

/-- 95_test_vectors.md C9. -/
theorem test_sneImm : (after (.sneImm 3#4 0x42#8) (State.reset.setReg 3#4 0x41)).pc = 0x204 := by decide

/-- 95_test_vectors.md C10. -/
theorem test_seReg : (after (.seReg 1#4 2#4) (with2 1#4 7 2#4 7)).pc = 0x204 := by decide

/-- 95_test_vectors.md C12, C13. -/
theorem test_sneReg : (after (.sneReg 1#4 2#4) (with2 1#4 7 2#4 8)).pc = 0x204 ∧
    (after (.sneReg 1#4 1#4) (with2 1#4 7 2#4 8)).pc = 0x202 := by decide

/-- 95_test_vectors.md C16: the sum is not masked. -/
theorem test_jpV0 : (after (.jpV0 0xFFF#12) (State.reset.setReg 0#4 0xFF)).pc = 0x10FE := by decide

/-- 95_test_vectors.md C18: only the low nibble names the key. -/
theorem test_skp : (after (.skp 0#4) { State.reset.setReg 0#4 0x15 with keyLatch := 0x0020 }).pc = 0x204 := by decide

/-- 95_test_vectors.md C20, C21. -/
theorem test_sknp : (after (.sknp 0#4) (State.reset.setReg 0#4 5)).pc = 0x204 ∧
    (after (.sknp 0#4) { State.reset.setReg 0#4 5 with keyLatch := 0x0020 }).pc = 0x202 := by decide

/-- 42_alu.md R141. -/
theorem test_ldImm : (after (.ldImm 0#4 0x0A#8) State.reset).reg 0#4 = 0x0A := by decide

/-- 95_test_vectors.md A27: no flag. -/
theorem test_addImm : let t := after (.addImm 1#4 0xFF#8) (with2 1#4 2 0xF#4 7)
    t.reg 1#4 = 1 ∧ t.reg 0xF#4 = 7 := by decide

/-- 42_alu.md R143. -/
theorem test_ldReg : (after (.ldReg 1#4 2#4) (with2 1#4 0x11 2#4 0x33)).reg 1#4 = 0x33 := by decide

/-- 95_test_vectors.md A21. -/
theorem test_orReg : (after (.orReg 1#4 2#4) (with2 1#4 0xF0 2#4 0x0F)).reg 1#4 = 0xFF := by decide

/-- 95_test_vectors.md A22. -/
theorem test_andReg : (after (.andReg 1#4 2#4) (with2 1#4 0xF0 2#4 0x3C)).reg 1#4 = 0x30 := by decide

/-- 95_test_vectors.md A23. -/
theorem test_xorReg : (after (.xorReg 1#4 2#4) (with2 1#4 0xF0 2#4 0x3C)).reg 1#4 = 0xCC := by decide

/-- 95_test_vectors.md A3. -/
theorem test_addReg : let t := after (.addReg 1#4 2#4) (with2 1#4 0xFF 2#4 0xFF)
    t.reg 1#4 = 0xFE ∧ t.reg 0xF#4 = 1 := by decide

/-- 95_test_vectors.md A30, A31: VF as destination and as operand. -/
theorem test_addReg_vf : (after (.addReg 0xF#4 2#4) (with2 0xF#4 0xFF 2#4 1)).reg 0xF#4 = 1 ∧
    (after (.addReg 1#4 0xF#4) (with2 1#4 0x10 0xF#4 0xF0)).reg 1#4 = 0 := by decide

/-- 95_test_vectors.md A9, A33. -/
theorem test_subReg : (after (.subReg 1#4 2#4) (with2 1#4 0x10 2#4 0x20)).reg 1#4 = 0xF0 ∧
    (after (.subReg 1#4 0xF#4) (with2 1#4 3 0xF#4 5)).reg 1#4 = 0xFE := by decide

/-- 95_test_vectors.md A6, A32. -/
theorem test_subReg_vf : (after (.subReg 1#4 2#4) (with2 1#4 5 2#4 5)).reg 0xF#4 = 1 ∧
    (after (.subReg 0xF#4 2#4) (with2 0xF#4 3 2#4 5)).reg 0xF#4 = 0 := by decide

/-- 95_test_vectors.md A15, A34. -/
theorem test_shr : (after (.shr 1#4) (with2 1#4 0xFF 2#4 0)).reg 1#4 = 0x7F ∧
    (after (.shr 0xF#4) (with2 0xF#4 2 2#4 0)).reg 0xF#4 = 0 := by decide

/-- 95_test_vectors.md A11, A36. -/
theorem test_subnReg : let t := after (.subnReg 1#4 2#4) (with2 1#4 2 2#4 1)
    t.reg 1#4 = 0xFF ∧ t.reg 0xF#4 = 0 ∧ (after (.subnReg 0xF#4 2#4) (with2 0xF#4 0x10 2#4 0x30)).reg 0xF#4 = 1 := by decide

/-- 95_test_vectors.md A20, A35. -/
theorem test_shl : let t := after (.shl 1#4) (with2 1#4 0xFF 2#4 0)
    t.reg 1#4 = 0xFE ∧ t.reg 0xF#4 = 1 ∧ (after (.shl 0xF#4) (with2 0xF#4 0x40 2#4 0)).reg 0xF#4 = 0 := by decide

/-- 95_test_vectors.md A28. -/
theorem test_rnd : (after (.rnd 1#4 0x0F#8) { State.reset with rnd := 0xA7 }).reg 1#4 = 0x07 := by decide

/-- 95_test_vectors.md M1. -/
theorem test_ldI : (after (.ldI 0x200#12) State.reset).i = 0x200 := by decide

/-- 95_test_vectors.md M4. -/
theorem test_addI : let t := after (.addI 2#4) { State.reset.setReg 2#4 0xFF with i := 0xFF0 }
    t.i = 0x0EF ∧ t.reg 0xF#4 = 0 := by decide

/-- 95_test_vectors.md M7. -/
theorem test_ldF : (after (.ldF 0#4) (State.reset.setReg 0#4 0x3A)).i = 0x032 := by decide

/-- 95_test_vectors.md M12: the last legal I. -/
theorem test_ldB : let t := after (.ldB 5#4) { State.reset.setReg 5#4 0xFF with i := 0xFFD }
    t.mem.read 0xFFD = 2 ∧ t.mem.read 0xFFE = 5 ∧ t.mem.read 0xFFF = 5 := by decide

/-- 95_test_vectors.md M13. -/
theorem test_ldB_fault : let t := after (.ldB 5#4) { State.reset.setReg 5#4 0xFF with i := 0xFFE }
    t.faultPort = some (3, 0x200, 0x1000) ∧ t.mem = [] := by decide

/-- 95_test_vectors.md M14. -/
theorem test_ldMemVx : let t := after (.ldMemVx 2#4) { (with2 0#4 1 1#4 2).setReg 2#4 3 with i := 0x300 }
    t.mem = [(0x300, 1), (0x301, 2), (0x302, 3)] ∧ t.i = 0x300 := by decide

/-- 95_test_vectors.md M15. -/
theorem test_ldMemVx_fault : (after (.ldMemVx 0xF#4) { State.reset with i := 0xFF1 }).faultPort = some (3, 0x200, 0x1000) := by decide

/-- 95_test_vectors.md M17. -/
theorem test_ldVxMem : let t := after (.ldVxMem 2#4) { State.reset with mem := [(0x300, 1), (0x301, 5), (0x302, 6)], i := 0x300 }
    t.reg 0#4 = 1 ∧ t.reg 1#4 = 5 ∧ t.reg 2#4 = 6 ∧ t.i = 0x300 := by decide

/-- 95_test_vectors.md M19. -/
theorem test_ldVxMem_font : (after (.ldVxMem 0#4) State.reset).reg 0#4 = 0xF0 := by decide

/-- 95_test_vectors.md D10. -/
theorem test_cls : (after .cls { State.reset with display := Vector.replicate 32 0xFFFF }).display = Vector.replicate 32 0 := by decide

/-- 95_test_vectors.md D3: glyph 0 at (62,31), wrapping on both axes. -/
theorem test_drw : let t := after (.drw 0#4 1#4 5#4) (with2 0#4 62 1#4 31)
    t.pixel 62 31 = true ∧ t.pixel 63 31 = true ∧ t.pixel 0 31 = true ∧ t.pixel 1 31 = true ∧ t.pixel 62 0 = true ∧
    t.pixel 63 0 = false ∧ t.pixel 1 2 = true ∧ t.pixel 0 3 = true ∧ t.pixel 2 31 = false ∧ t.reg 0xF#4 = 0 := by decide

/-- 95_test_vectors.md D7. -/
theorem test_drw_collision : let s := { with2 0#4 5 1#4 5 with mem := [(0x200, 0x80)], i := 0x200, display := State.reset.display.set 5 0x20 }
    let t := after (.drw 0#4 1#4 1#4) s
    t.pixel 5 5 = false ∧ t.reg 0xF#4 = 1 := by decide

/-- 44_display.md R174: under clip the pixel past the right edge has no cell. -/
theorem test_drw_clip_alternative : spriteCell .clip 62 31 0 1 = some (31 * 64 + 63) ∧ spriteCell .clip 62 31 0 2 = none ∧ spriteCell .clip 62 31 1 0 = none := by decide

/-- 45_timers_keys.md R180. -/
theorem test_ldVxDt : (after (.ldVxDt 3#4) { State.reset with dt := 0x3C }).reg 3#4 = 0x3C := by decide

/-- 45_timers_keys.md R181. -/
theorem test_ldDtVx : (after (.ldDtVx 3#4) (State.reset.setReg 3#4 5)).dt = 5 := by decide

/-- 95_test_vectors.md T6, T7. -/
theorem test_ldStVx : (after (.ldStVx 3#4) (State.reset.setReg 3#4 2)).soundActive = true ∧
    (after (.ldStVx 3#4) State.reset).soundActive = false := by decide

/-- 95_test_vectors.md K1. -/
theorem test_ldVxK : let t := after (.ldVxK 5#4) State.reset
    t.runState = .awaitingKey 5#4 ∧ t.pc = 0x200 ∧ t.cpuResult = .waiting := by decide

/-! ## The cycle -/

/-- The state a `cpu_step` answers; the state itself where it answers none. -/
def cycle (keys : Word) (b : Byte) (s : State) : State :=
  match cpuStep keys b s with
  | .next t => t
  | .fault _ => s
  | .refused _ => s

/-- The reset state about to serve `cpu_step(keys, 0)` with a word at pc. -/
def aboutToRun (pc : Word) (hi lo : Byte) (keys : Word) : State :=
  { State.reset with pc := pc, mem := Memory.writeBytes [] pc.toNat [hi, lo], pending := [.cpuStep keys 0] }

/-- A state waiting for a key into V5. -/
def waiting (held : Word) : State := { State.reset with runState := .awaitingKey 5#4, keyLatch := held }

/-- 95_test_vectors.md K3: the lowest of two edges. -/
theorem test_wait_edge : let t := cycle 0x0018 0 (waiting 0)
    t.reg 5#4 = 3 ∧ t.pc = 0x202 ∧ t.runState = .running := by decide

/-- 95_test_vectors.md K4: a held key is no edge. -/
theorem test_wait_held : (cycle 0x0008 0 (waiting 0x0008)).runState = .awaitingKey 5#4 := by decide

/-- 95_test_vectors.md F1. -/
theorem test_unknown : let t := cycle 0 0 { State.reset with mem := [(0x200, 0x80), (0x201, 0x08)] }
    t.pc = 0x202 ∧ t.unknownCount = 1 := by decide

/-- 95_test_vectors.md F2. -/
theorem test_unknown_saturates : (cycle 0 0 { State.reset with mem := [(0x200, 0xF0), (0x201, 0xFF)], unknownCount := 0xFFFFFFFF }).unknownCount =
    0xFFFFFFFF := by decide

/-- 95_test_vectors.md C2. -/
theorem test_fetch_below : (cycle 0 0 { State.reset with pc := 0x100 }).faultPort = some (3, 0x100, 0x100) := by decide

/-- 95_test_vectors.md C24. -/
theorem test_fetch_top : (cycle 0 0 { State.reset with pc := 0xFFF }).faultPort = some (3, 0xFFF, 0x1000) := by decide

/-- 95_test_vectors.md C16. -/
theorem test_fetch_above : (cycle 0 0 { State.reset with pc := 0x10FE }).faultPort = some (3, 0x10FE, 0x10FE) := by decide

/-- 95_test_vectors.md F3: nothing changes, the latches included. -/
theorem test_halted : cycle 0xFFFF 0 { State.reset with runState := .halted } = { State.reset with runState := .halted } := by decide

/-- 40_cycle.md R108: `timer_step` in Halted answers Halted with the record, and elsewhere nothing. -/
theorem test_timerResult : let t := (after .ret State.reset).timerStep 60 5
    t.timerResult = some (.halted (some { kind := .stackUnderflow, pcAt := 0x200, addr := 0x200 })) ∧
    (State.reset.timerStep 60 5).timerResult = none := by decide

/-- 40_cycle.md R110 (c) with R101: a jump to itself at 0x200 is idle, and one below the fetch window is not (log 17). -/
theorem test_idle : (aboutToRun 0x200 0x12 0x00 0).idle = true ∧ (aboutToRun 0x100 0x11 0x00 0).idle = false := by decide

/-- 95_test_vectors.md T2. -/
theorem test_timerStep : let t := { State.reset with dt := 5, st := 2 }.timerStep 60 3
    t.dt = 2 ∧ t.st = 0 ∧ t.timerAcc = 0 := by decide

/-- 95_test_vectors.md T4, the second call. -/
theorem test_timerStep_accumulates : let t := { State.reset with dt := 5, timerAcc := 600 }.timerStep 1000 10
    t.dt = 4 ∧ t.timerAcc = 200 := by decide

/-- The next step after reset runs the word placed (log 4): 95_test_vectors.md S9, first cycle. -/
theorem test_withFetchWord_runs : (match step (State.reset.withFetchWord 16 0x600A) with
    | .next t => t.reg 0#4 == 0x0A && t.pc == 0x202
    | .fault _ => false
    | .refused _ => false) = true := by decide

/-! ## Witnesses: the hypotheses of the statements are met, each clause at the ends of its range -/

/-- The reset state with I set, V0 = 0xFF and V1 = 0x12. -/
def indexed (a : Word) : State := { with2 0#4 0xFF 1#4 0x12 with i := a }

/-- DecodeEncodeRoundTrip: a well-formed instruction, one of the two families with an ill-formed form. -/
theorem witness_DecodeEncodeRoundTrip : (Instr.sys 0x123#12).wellFormed = true := by decide

/-- EncodeDecodeKeepsUsedBits: a word with ignored bits set. -/
theorem witness_EncodeDecodeKeepsUsedBits : (decode 0x8AB6#16).uop = .known (.shr 0xA#4) := by decide

/-- UnknownWordsAreThese: one word in each of its three ranges. -/
theorem witness_UnknownWordsAreThese : (decode 0x8008#16).uop = .unknown 0x8008#16 ∧
    (decode 0xE09F#16).uop = .unknown 0xE09F#16 ∧ (decode 0xFFFF#16).uop = .unknown 0xFFFF#16 := by decide

/-- FetchIsBigEndian: the example's two bytes. -/
theorem witness_FetchIsBigEndian : let s := aboutToRun 0x200 0x60 0x0A 0
    s.mem.read s.pc.toNat = 0x60 ∧ s.mem.read (s.pc.toNat + 1) = 0x0A := by decide

/-- StepRunsDecoded: the first, an odd and the last pc of the window. -/
theorem witness_StepRunsDecoded : ∀ pc ∈ [0x200#16, 0x301#16, 0xFFE#16], let s := aboutToRun pc 0x60 0x0A 3
    s.nextCall = .cpuStep 3 0 ∧ s.runState = .running ∧ 0x200 ≤ s.pc.toNat ∧ s.pc.toNat ≤ 0xFFE ∧
    (decodeBytes (s.mem.read s.pc.toNat) (s.mem.read (s.pc.toNat + 1))).uop = .known (.ldImm 0#4 0x0A#8) := by
  intro pc h
  simp only [List.mem_cons, List.not_mem_nil, or_false] at h
  obtain rfl | rfl | rfl := h <;> decide

/-- StepCountsUnknown. -/
theorem witness_StepCountsUnknown : let s := { aboutToRun 0x200 0x80 0x08 0 with unknownCount := 0xFFFFFFFF }
    s.nextCall = .cpuStep 0 0 ∧ s.runState = .running ∧ 0x200 ≤ s.pc.toNat ∧ s.pc.toNat ≤ 0xFFE ∧
    (decodeBytes (s.mem.read s.pc.toNat) (s.mem.read (s.pc.toNat + 1))).uop = .unknown 0x8008#16 := by decide

/-- FetchOutsideWindowHalts: just below the window, just above it, and the two clauses of the address. -/
theorem witness_FetchOutsideWindowHalts : ∀ pc ∈ [0x1FF#16, 0xFFF#16, 0x1000#16], let s := aboutToRun pc 0 0 0
    s.nextCall = .cpuStep 0 0 ∧ s.runState = .running ∧ (s.pc.toNat < 0x200 ∨ 0xFFE < s.pc.toNat) := by
  intro pc h
  simp only [List.mem_cons, List.not_mem_nil, or_false] at h
  obtain rfl | rfl | rfl := h <;> decide

/-- CpuStepLatchesKeys: a running and a waiting core. -/
theorem witness_CpuStepLatchesKeys : State.reset.runState ≠ .halted ∧ (waiting 1).runState ≠ .halted := by decide

/-- HaltedIgnoresCalls. -/
theorem witness_HaltedIgnoresCalls : (after .ret State.reset).runState = .halted := by decide

/-- StepAlwaysAnswers: a call that is no `construct`, and a `construct` of a ROM that fits. -/
theorem witness_StepAlwaysAnswers : (∀ rom, (aboutToRun 0x200 0 0 0).nextCall = .construct rom → rom.length ≤ 3584) ∧
    ∀ rom, ({ State.reset with pending := [.construct [1]] } : State).nextCall = .construct rom → rom.length ≤ 3584 := by
  constructor
  · intro rom h
    cases h
  · intro rom h
    cases h
    decide

/-- IdleStaysIdle: a jump to itself. -/
theorem witness_IdleStaysIdle : let s := aboutToRun 0x200 0x12 0x00 7
    s.idle = true ∧ s.nextCall = .cpuStep 7 0 := by decide

/-- StepKeepsInv: a state inside a subroutine whose next step answers. -/
theorem witness_StepKeepsInv : let s : State :=
      { aboutToRun 0x204 0x00 0xEE 0 with sp := 1, stack := State.reset.stack.set 0 0x202 }
    s.Inv ∧ ∃ t, step s = .next t := by
  refine ⟨⟨by decide, by decide, by decide, Config.timerUnits_pos, by decide, ?_, by decide, ?_⟩, _, rfl⟩
  · intro r h
    cases h
  · intro f h
    cases h

/-- ConstructLoadsRom: the longest ROM that fits and the shortest that does not. -/
theorem witness_ConstructLoadsRom : (List.replicate 3584 (0 : Byte)).length ≤ 3584 ∧
    3584 < (List.replicate 3585 (0 : Byte)).length := by
  simp only [List.length_replicate]
  decide

/-- FaultsArePrecise: a core not halted that an instruction halts. -/
theorem witness_FaultsArePrecise : State.reset.runState ≠ .halted ∧ ∃ t, exec .ret State.reset = .next t ∧
    t.runState = .halted := ⟨by decide, _, rfl, by decide⟩

/-- FaultCausesAreThese: each cause. -/
theorem witness_FaultCausesAreThese : State.reset.runState ≠ .halted ∧ (after .ret State.reset).runState = .halted ∧
    (after (.call 0x300#12) { State.reset with sp := 16 }).runState = .halted ∧
    (after (.drw 0#4 1#4 5#4) (indexed 0xFFC)).runState = .halted ∧
    (after (.ldB 0#4) (indexed 0xFFE)).runState = .halted ∧
    (after (.ldMemVx 0xF#4) (indexed 0xFF1)).runState = .halted ∧
    (after (.ldVxMem 0xF#4) (indexed 0xFF1)).runState = .halted := by decide

/-- StackWritersAreThese: CALL moves both, RET moves SP. -/
theorem witness_StackWritersAreThese : let s : State := { State.reset with sp := 1 }
    (∃ t, exec (.call 0x300#12) s = .next t ∧ t.stack ≠ s.stack ∧ t.sp ≠ s.sp) ∧
    ∃ t, exec .ret s = .next t ∧ t.sp ≠ s.sp := ⟨⟨_, rfl, by decide⟩, _, rfl, by decide⟩

/-- TimerWritersAreThese: each timer moved. -/
theorem witness_TimerWritersAreThese :
    (∃ t, exec (.ldDtVx 0#4) (indexed 0) = .next t ∧ t.dt ≠ (indexed 0).dt) ∧
    ∃ t, exec (.ldStVx 0#4) (indexed 0) = .next t ∧ t.st ≠ (indexed 0).st := ⟨⟨_, rfl, by decide⟩, _, rfl, by decide⟩

/-- DisplayAndMemoryWritersAreThese: a draw and a store that change something. -/
theorem witness_DisplayAndMemoryWritersAreThese :
    (∃ t, exec (.drw 0#4 1#4 1#4) (indexed 0) = .next t ∧ t.display ≠ (indexed 0).display) ∧
    ∃ t, exec (.ldMemVx 0#4) (indexed 0x300) = .next t ∧ t.mem.read 0x300 ≠ (indexed 0x300).mem.read 0x300 :=
  ⟨⟨_, rfl, by decide⟩, _, rfl, by decide⟩

/-- IndexWritersAreThese: the three writers. -/
theorem witness_IndexWritersAreThese : ∀ i ∈ [Instr.ldI 0xFFF#12, .addI 0#4, .ldF 1#4],
    ∃ t, exec i (indexed 0x300) = .next t ∧ t.i ≠ (indexed 0x300).i := by
  intro i h
  simp only [List.mem_cons, List.not_mem_nil, or_false] at h
  obtain rfl | rfl | rfl := h <;> exact ⟨_, rfl, by decide⟩

/-- FlagWritersAreThese: a flag writer, an instruction that names VF, and the block load. -/
theorem witness_FlagWritersAreThese : ∀ i ∈ [Instr.subReg 0#4 1#4, .ldImm 0xF#4 9#8, .ldVxMem 0xF#4],
    ∃ t, exec i (indexed 0) = .next t ∧ t.reg 0xF#4 ≠ (indexed 0).reg 0xF#4 := by
  intro i h
  simp only [List.mem_cons, List.not_mem_nil, or_false] at h
  obtain rfl | rfl | rfl := h <;> exact ⟨_, rfl, by decide⟩

/-- CallPushesReturn: an empty stack and one free entry. -/
theorem witness_CallPushesReturn : State.reset.sp.val < 16 ∧ ({ State.reset with sp := 15 } : State).sp.val < 16 := by
  decide

/-- RetPopsReturn: one live entry and sixteen. -/
theorem witness_RetPopsReturn : 0 < ({ State.reset with sp := 1 } : State).sp.val ∧
    0 < ({ State.reset with sp := 16 } : State).sp.val := by decide

/-- StackFaultsHalt: a full stack and an empty one. -/
theorem witness_StackFaultsHalt : ({ State.reset with sp := 16 } : State).sp.val = 16 ∧ State.reset.sp.val = 0 := by
  decide

/-- RetFollowsCall: the called code has moved on to another pc. -/
theorem witness_RetFollowsCall : ∃ t, State.reset.sp.val < 16 ∧ exec (.call 0x300#12) State.reset = .next t ∧
    SameStack t { t with pc := 0x310 } := ⟨_, by decide, rfl, rfl, rfl⟩

/-- LdBStoresDigits: the last I that fits and the first that does not. -/
theorem witness_LdBStoresDigits : ((indexed 0xFFD).mem.wf = true ∧ (indexed 0xFFD).ea 2 ≤ 0xFFF) ∧
    0xFFF < (indexed 0xFFE).ea 2 := by decide

/-- LdMemVxStoresBlock: the longest block, ending at the last address. -/
theorem witness_LdMemVxStoresBlock : (indexed 0xFF0).mem.wf = true ∧ (indexed 0xFF0).ea (0xF#4).toNat ≤ 0xFFF := by
  decide

/-- LdVxMemLoadsBlock: the longest block and the shortest, each ending at the last address. -/
theorem witness_LdVxMemLoadsBlock : (indexed 0xFF0).ea (0xF#4).toNat ≤ 0xFFF ∧
    (indexed 0xFFF).ea (0x0#4).toNat ≤ 0xFFF := by decide

/-- OutOfRangeAccessHalts: the first I past the range of a block of sixteen and of five rows. -/
theorem witness_OutOfRangeAccessHalts : 0xFFF < (indexed 0xFF1).ea (0xF#4).toNat ∧
    ((5#4 : Nibble) ≠ 0 ∧ 0xFFF < (indexed 0xFFC).ea ((5#4 : Nibble).toNat - 1)) := by decide

/-- StoreThenFetch: I points at the next instruction. -/
theorem witness_StoreThenFetch : let s := indexed 0x202
    s.mem.wf = true ∧ s.ea 1 ≤ 0xFFF ∧ s.ea 0 = (s.pc + 2).toNat := by decide

/-- DrwFlipsCoveredCells: no row with I at the top, and five rows ending at the last address. -/
theorem witness_DrwFlipsCoveredCells : (0#4 : Nibble) = 0 ∧ (indexed 0xFFB).ea ((5#4 : Nibble).toNat - 1) ≤ 0xFFF := by
  decide

/-- DrwFlipsCoveredCells: at reset glyph 0 at (255, 18) covers cell (63, 18) and not cell (62, 18). -/
theorem witness_DrwFlipsCoveredCells_cells : spriteCovers (indexed 0) 0#4 1#4 5#4 63 18 ∧
    ¬ spriteCovers (indexed 0) 0#4 1#4 5#4 62 18 := by
  refine ⟨⟨0, 0, by decide⟩, ?_⟩
  rintro ⟨r, c, -, hc, -, hx, -⟩
  have hv : ((indexed 0).reg 0#4).toNat = 255 := by decide
  omega

/-- DrwTwiceRestores: no coordinate register is VF. -/
theorem witness_DrwTwiceRestores : ∃ t, (indexed 0).ea ((5#4 : Nibble).toNat - 1) ≤ 0xFFF ∧
    exec (.drw 0#4 1#4 5#4) (indexed 0) = .next t ∧ t.reg 0#4 = (indexed 0).reg 0#4 ∧ t.reg 1#4 = (indexed 0).reg 1#4 :=
  ⟨_, by decide, rfl, by decide, by decide⟩

/-- WaitHoldsWithoutEdge: keys held and keys released. -/
theorem witness_WaitHoldsWithoutEdge : (waiting 0x00F0).runState = .awaitingKey 5#4 ∧
    ∀ k, k < 16 → (0x0030#16).getLsbD k = true → (waiting 0x00F0).keyLatch.getLsbD k = true := by decide

/-- WaitEndsOnLowestEdge: key 0, and key 15 with key 0 held. -/
theorem witness_WaitEndsOnLowestEdge :
    ((waiting 0).runState = .awaitingKey 5#4 ∧ (0xFFFF#16).getLsbD 0 = true ∧ (waiting 0).keyLatch.getLsbD 0 = false ∧
      ∀ j, j < 0 → (0xFFFF#16).getLsbD j = true → (waiting 0).keyLatch.getLsbD j = true) ∧
    ((waiting 1).runState = .awaitingKey 5#4 ∧ (0x8001#16).getLsbD 15 = true ∧ (waiting 1).keyLatch.getLsbD 15 = false ∧
      ∀ j, j < 15 → (0x8001#16).getLsbD j = true → (waiting 1).keyLatch.getLsbD j = true) := by decide

/-- TimerStepCountsTicks and TimerStepsAdd: the smallest unit, running and waiting. -/
theorem witness_TimerStepCountsTicks : 0 < 1 ∧ State.reset.runState ≠ .halted ∧ (waiting 0).runState ≠ .halted := by
  decide

/-- StepServesTimerAndConstruct: each clause's call. -/
theorem witness_StepServesTimerAndConstruct :
    ({ State.reset with pending := [.timerStep 5] } : State).nextCall = .timerStep 5 ∧
    ({ State.reset with pending := [.construct []] } : State).nextCall = .construct [] := by decide

end Sys2Proof.Tests
end

section
/-!
SUPPORT. What an instruction can do, said once: `InstrEffect s i t` lists the next states by the elements they write,
guards included, and `exec_effect` says that every instruction answers one of them. Who writes which element
(10_state.md) is then a case analysis over the effects.
-/

namespace Sys2Proof

/-- The destination of an instruction whose one write, beside the pc, is a general register (10_state.md R22). -/
def Instr.loadDest : Instr → Option Nibble
  | .ldImm x _ | .addImm x _ | .rnd x _ | .ldReg x _ | .orReg x _ | .andReg x _ | .xorReg x _ | .ldVxDt x => some x
  | _ => none

/-- The destination of an instruction that writes a result and then VF (42_alu.md R140). -/
def Instr.resultDest : Instr → Option Nibble
  | .addReg x _ | .subReg x _ | .subnReg x _ | .shr x | .shl x => some x
  | _ => none

/-- The skip class (41_control_flow.md R120). -/
def Instr.isSkip : Instr → Bool
  | .seImm _ _ | .sneImm _ _ | .seReg _ _ | .sneReg _ _ | .skp _ | .sknp _ => true
  | _ => false

/-- How many bytes of memory from `EA(0)` up an instruction touches, if it is one whose addresses are checked
(20_memory.md R55, R56). -/
def Instr.accessCount : Instr → Option Nat
  | .drw _ _ n => some n.toNat
  | .ldB _ => some 3
  | .ldMemVx x | .ldVxMem x => some (x.toNat + 1)
  | _ => none

/-- The plain register writers that name VF as their destination (10_state.md R22, R30). -/
theorem Instr.eq_of_loadDest_vf {i : Instr} (h : i.loadDest = some 0xF#4) :
    (∃ nn, i = .ldImm 0xF#4 nn ∨ i = .addImm 0xF#4 nn ∨ i = .rnd 0xF#4 nn) ∨
      (∃ y, i = .ldReg 0xF#4 y ∨ i = .orReg 0xF#4 y ∨ i = .andReg 0xF#4 y ∨ i = .xorReg 0xF#4 y) ∨
      i = .ldVxDt 0xF#4 := by
  cases i <;> simp_all [Instr.loadDest]

/-- The instructions that write a result and a flag: three of two registers, and the shifts (42_alu.md R147 to R151). -/
theorem Instr.eq_of_resultDest {i : Instr} {x : Nibble} (h : i.resultDest = some x) :
    (∃ x y, i = .addReg x y ∨ i = .subReg x y ∨ i = .subnReg x y) ∨ ∃ x, i = .shr x ∨ i = .shl x := by
  cases i <;> simp_all [Instr.resultDest]

end Sys2Proof

namespace Sys2Proof.Machine

/-- The next states of an instruction, by what they write: the three faults (60_exceptions.md R201), the control flow,
the register, index and memory writers, the display, the timers and the key wait. -/
inductive InstrEffect (s : State) : Instr → State → Prop
  | underflow (empty : s.sp.val = 0) : InstrEffect s .ret (s.raise .stackUnderflow s.pc.toNat)
  | overflow {nnn : Addr} (full : s.sp.val = 16) : InstrEffect s (.call nnn) (s.raise .stackOverflow s.pc.toNat)
  | overrun {i : Instr} {count : Nat} (touches : i.accessCount = some count) (past : 0x1000 < s.ea 0 + count) :
      InstrEffect s i (s.raise .outOfBounds 0x1000)
  | ret (live : s.sp.val ≠ 0) : InstrEffect s .ret (s.setPc s.stackTop).popReturn
  | call {nnn : Addr} (room : s.sp.val ≠ 16) :
      InstrEffect s (.call nnn) ((s.pushReturn (s.pc + 2)).setPc (nnn.setWidth 16))
  | sys {nnn : Addr} : InstrEffect s (.sys nnn) s.advance
  | jp {nnn : Addr} : InstrEffect s (.jp nnn) (s.setPc (nnn.setWidth 16))
  | jpV0 {nnn : Addr} : InstrEffect s (.jpV0 nnn) (s.setPc (nnn.setWidth 16 + (s.reg 0x0#4).setWidth 16))
  | skip {i : Instr} (cond : Bool) (skips : i.isSkip = true) : InstrEffect s i (s.skipIf cond)
  | load {i : Instr} {x : Nibble} (b : Byte) (dest : i.loadDest = some x) : InstrEffect s i (s.setReg x b).advance
  | resultFlag {i : Instr} {x : Nibble} (b : Byte) (flag : Bool) (dest : i.resultDest = some x) :
      InstrEffect s i (s.setResultFlag x b flag).advance
  | loadBlock {x : Nibble} (fits : s.ea 0 + (x.toNat + 1) ≤ 0x1000) :
      InstrEffect s (.ldVxMem x) (s.loadRegs 0 (s.bytesAtIndex (x.toNat + 1))).advance
  | index {i : Instr} (a : Word) (writer : (∃ nnn, i = .ldI nnn) ∨ ∃ x, i = .addI x ∨ i = .ldF x)
      (le : a.toNat ≤ 0xFFF) : InstrEffect s i (s.setIndex a).advance
  | store {i : Instr} (bytes : List Byte) (writer : ∃ x, i = .ldB x ∨ i = .ldMemVx x)
      (fits : s.ea 0 + bytes.length ≤ 0x1000) : InstrEffect s i (s.setMem (s.mem.writeBytes (s.ea 0) bytes)).advance
  | cls : InstrEffect s .cls (s.setDisplay Screen.clear).advance
  | draw {x y n : Nibble} (d : Screen) (hit : Bool) (fits : s.ea 0 + n.toNat ≤ 0x1000) :
      InstrEffect s (.drw x y n) ((s.setDisplay d).setReg vf (flagByte hit)).advance
  | delay {x : Nibble} : InstrEffect s (.ldDtVx x) (s.setDelay (s.reg x)).advance
  | sound {x : Nibble} : InstrEffect s (.ldStVx x) (s.setSound (s.reg x)).advance
  | wait {x : Nibble} : InstrEffect s (.ldVxK x) (s.setRunState (.awaitingKey x))

variable {s t : State} {i : Instr}

/-- A checked access either overruns or has its effect (20_memory.md R56). -/
theorem InstrEffect.guard {count : Nat} (touches : i.accessCount = some count)
    (effect : s.ea 0 + count ≤ 0x1000 → InstrEffect s i t) : InstrEffect s i (s.guardAddresses count t) := by
  obtain ⟨fits, eq⟩ | ⟨past, eq⟩ := s.guardAddresses_cases count t
  · rw [eq]; exact effect fits
  · rw [eq]; exact .overrun touches past

/-- Every instruction answers a next state, and that state is one of its effects (40_cycle.md R103). -/
theorem exec_effect (i : Instr) (s : State) : ∃ t, exec i s = .next t ∧ InstrEffect s i t := by
  cases i
  case ret =>
    by_cases h : s.sp.val = 0
    · exact ⟨_, if_pos h, .underflow h⟩
    · exact ⟨_, if_neg h, .ret h⟩
  case call =>
    by_cases h : s.sp.val = 16
    · exact ⟨_, if_pos h, .overflow h⟩
    · exact ⟨_, if_neg h, .call h⟩
  case sys => exact ⟨_, rfl, .sys⟩
  case jp => exact ⟨_, rfl, .jp⟩
  case jpV0 => exact ⟨_, rfl, .jpV0⟩
  case seImm | sneImm | seReg | sneReg | skp | sknp => exact ⟨_, rfl, .skip _ rfl⟩
  case ldImm | addImm | rnd | ldReg | orReg | andReg | xorReg | ldVxDt => exact ⟨_, rfl, .load _ rfl⟩
  case addReg | subReg | subnReg | shr | shl => exact ⟨_, rfl, .resultFlag _ _ rfl⟩
  case ldVxMem => exact ⟨_, rfl, .guard rfl .loadBlock⟩
  case ldI => exact ⟨_, rfl, .index _ (.inl ⟨_, rfl⟩) (by bv_omega)⟩
  case addI => exact ⟨_, rfl, .index _ (.inr ⟨_, .inl rfl⟩) (by rw [BitVec.toNat_ofNat]; omega)⟩
  case ldF => exact ⟨_, rfl, .index _ (.inr ⟨_, .inr rfl⟩) (by rw [glyphAddress_toNat]; omega)⟩
  case ldB => exact ⟨_, rfl, .guard rfl fun fits => .store _ ⟨_, .inl rfl⟩ (by rwa [bcdDigits_length])⟩
  case ldMemVx =>
    exact ⟨_, rfl, .guard rfl fun fits => .store _ ⟨_, .inr rfl⟩ (by rwa [State.regBlock_length])⟩
  case cls => exact ⟨_, rfl, .cls⟩
  case drw => exact ⟨_, rfl, .guard rfl (.draw _ _)⟩
  case ldDtVx => exact ⟨_, rfl, .delay⟩
  case ldStVx => exact ⟨_, rfl, .sound⟩
  case ldVxK => exact ⟨_, rfl, .wait⟩

/-- The inversion form: the answer an instruction gave is one of its effects. -/
theorem InstrEffect.of_exec (h : exec i s = .next t) : InstrEffect s i t := by
  obtain ⟨u, hu, effect⟩ := exec_effect i s
  obtain rfl : u = t := Host.Outcome.next.inj (hu.symm.trans h)
  exact effect

/-! ### Who writes what -/

/-- Only a push writes an entry of the stack (10_state.md R28). -/
theorem InstrEffect.stack_eq (h : InstrEffect s i t) : t.stack = s.stack ∨ ∃ nnn, i = .call nnn := by
  cases h
  case call => exact .inr ⟨_, rfl⟩
  all_goals exact .inl (by simp)

/-- Only a push and a pop move SP (10_state.md R28, R29). -/
theorem InstrEffect.sp_eq (h : InstrEffect s i t) : t.sp = s.sp ∨ i = .ret ∨ ∃ nnn, i = .call nnn := by
  cases h
  case call => exact .inr (.inr ⟨_, rfl⟩)
  case ret => exact .inr (.inl rfl)
  all_goals exact .inl (by simp)

/-- Only the clear and a draw write the display (10_state.md R34). -/
theorem InstrEffect.display_eq (h : InstrEffect s i t) :
    t.display = s.display ∨ i = .cls ∨ ∃ x y n, i = .drw x y n := by
  cases h
  case cls => exact .inr (.inl rfl)
  case draw => exact .inr (.inr ⟨_, _, _, rfl⟩)
  all_goals exact .inl (by simp)

/-- Only a store writes memory (20_memory.md R50). -/
theorem InstrEffect.mem_eq (h : InstrEffect s i t) : t.mem = s.mem ∨ ∃ x, i = .ldB x ∨ i = .ldMemVx x := by
  cases h
  case store writer => exact .inr writer
  all_goals exact .inl (by simp)

/-- Only the index writers write I, and what they write fits 12 bits (10_state.md R23, R24). -/
theorem InstrEffect.i_eq (h : InstrEffect s i t) :
    t.i = s.i ∨ ((∃ nnn, i = .ldI nnn) ∨ ∃ x, i = .addI x ∨ i = .ldF x) ∧ t.i.toNat ≤ 0xFFF := by
  cases h
  case index le writer => exact .inr ⟨writer, le⟩
  all_goals exact .inl (by simp)

/-- A block load that stops below VF leaves VF as it was (43_index_memory.md R165). -/
theorem State.loadBlock_vf (s : State) {x : Nibble} (ne : x ≠ 0xF#4) :
    (s.loadRegs 0 (s.bytesAtIndex (x.toNat + 1))).reg 0xF#4 = s.reg 0xF#4 := by
  have lt : x.toNat < 15 := by bv_omega
  rw [State.loadRegs_reg _ _ _ (by rw [State.bytesAtIndex_length]; omega), dif_neg]
  rw [State.bytesAtIndex_length]
  show ¬ (0 ≤ 15 ∧ 15 - 0 < x.toNat + 1)
  omega

/-- No effect writes the latches, the entropy operand, the host's calls or the diagnostic counter
(10_state.md R35, R36, R40, R42). -/
theorem InstrEffect.sameHostElements (h : InstrEffect s i t) : SameInputs s t ∧ t.unknownCount = s.unknownCount := by
  cases h <;> simp [SameInputs]

end Sys2Proof.Machine

open Sys2Proof Sys2Proof.Machine

/-- Settles O23: of the effects, only the push writes an entry and only the push and the pop move SP. -/
theorem stackWritersAreThese : Obligations.StackWritersAreThese := by
  intro i s t h
  have effect := InstrEffect.of_exec h
  exact ⟨effect.stack_eq.resolve_left, effect.sp_eq.resolve_left⟩

/-- Settles O25: of the effects, only the clear and a draw write the display, and only a store writes memory. -/
theorem displayAndMemoryWritersAreThese : Obligations.DisplayAndMemoryWritersAreThese := by
  intro i s t h
  have effect := InstrEffect.of_exec h
  exact ⟨effect.display_eq.resolve_left, fun a ne => effect.mem_eq.resolve_left fun eq => ne (by rw [eq])⟩

/-- Settles O26: of the effects, only the index writers write I, each within 12 bits. -/
theorem indexWritersAreThese : Obligations.IndexWritersAreThese := by
  intro i s t h
  exact (InstrEffect.of_exec h).i_eq.resolve_left

/-- Settles O27: VF is written by a result with its flag, by a draw, by a plain register write to VF and by a block load
that reaches VF. -/
theorem flagWritersAreThese : Obligations.FlagWritersAreThese := by
  intro i s t h changed
  cases InstrEffect.of_exec h
  case resultFlag dest =>
    obtain regs | shifts := Instr.eq_of_resultDest dest
    · exact .inl regs
    · exact .inr (.inl shifts)
  case draw x y n _ _ _ => exact .inr (.inr (.inl ⟨x, y, n, rfl⟩))
  case load x b dest =>
    obtain rfl : x = 0xF#4 := by
      by_contra ne
      exact changed (by simp [Ne.symm ne])
    obtain imm | reg | dt := Instr.eq_of_loadDest_vf dest
    · exact .inr (.inr (.inr (.inl imm)))
    · exact .inr (.inr (.inr (.inr (.inl reg))))
    · exact .inr (.inr (.inr (.inr (.inr (.inl dt)))))
  case loadBlock x _ =>
    obtain rfl : x = 0xF#4 := by
      by_contra ne
      exact changed (s.loadBlock_vf ne)
    exact .inr (.inr (.inr (.inr (.inr (.inr rfl)))))
  all_goals exact absurd (by simp) changed

/-- Settles O28: every instruction answers one of its effects, and none writes the host's elements. -/
theorem instructionsLeaveHostElements : Obligations.InstructionsLeaveHostElements := by
  intro i s
  obtain ⟨t, answers, effect⟩ := exec_effect i s
  exact ⟨t, answers, effect.sameHostElements⟩
end

section
/-!
SUPPORT. Memory and the fetch: the word two bytes form, the checked access past the end, a store the next fetch reads,
and that every step keeps the invariant of the reachable states. A fault is one case of every effect, and a live effect
is shown to keep each clause of the invariant on its own.
-/

namespace Sys2Proof

/-- The byte at the lower address is bits 15..8 (20_memory.md R52). -/
theorem wordOfBytes_toNat (hi lo : Byte) : (wordOfBytes hi lo).toNat = hi.toNat * 256 + lo.toNat := by
  have bits : (wordOfBytes hi lo).toNat = hi.toNat <<< 8 ||| lo.toNat := BitVec.toNat_append hi lo
  rw [bits, ← Nat.shiftLeft_add_eq_or_of_lt lo.isLt, Nat.shiftLeft_eq]

end Sys2Proof

namespace Sys2Proof.Machine

variable {s t : State} {i : Instr}

/-! ### What a checked access answers -/

/-- A block store that fits writes V0..Vx from `EA(0)` up (43_index_memory.md R164). -/
theorem exec_ldMemVx_of_fits {x : Nibble} (fits : s.ea x.toNat ≤ 0xFFF) :
    exec (.ldMemVx x) s = .next (s.setMem (s.mem.writeBytes (s.ea 0) (s.regBlock x))).advance := by
  rw [s.ea_eq] at fits
  exact congrArg _ (s.guardAddresses_of_fits (by omega) _)

/-- An access that overruns memory leaves the halted state of OutOfBounds at 0x1000, whatever its effect would have
been (20_memory.md R56). -/
theorem guardAddresses_eq_haltedWith {count : Nat} (pos : 0 < count) (past : 0xFFF < s.ea (count - 1))
    (effect : State) : s.guardAddresses count effect = haltedWith s .outOfBounds 0x1000#17 := by
  rw [s.ea_eq] at past
  exact s.guardAddresses_of_overrun (by omega) effect

/-! ### Who keeps which clause of the invariant -/

/-- A core that is not halted holds no fault record (60_exceptions.md R203). -/
theorem State.Inv.fault_eq_none (inv : s.Inv) (live : s.runState ≠ .halted) : s.fault = none := by
  rw [← Option.not_isSome_iff_eq_none, ← inv.haltedIff]
  exact live

/-- The return address on top of a stack with a live entry (10_state.md R28). -/
theorem State.Inv.stackTop_le (inv : s.Inv) (live : s.sp.val ≠ 0) : s.stackTop.toNat ≤ 0x1000 :=
  (inv.liveEntries (s.sp.val - 1) (by omega) (by omega)).2

/-- A store that passed the address check keeps memory canonical (20_memory.md R50). -/
theorem InstrEffect.mem_wf (h : InstrEffect s i t) (wf : s.mem.wf = true) : t.mem.wf = true := by
  cases h
  case store bytes fits _ => exact Memory.wf_writeBytes wf _ _ fits
  all_goals simpa using wf

/-- No instruction writes the timer accumulator (10_state.md R32). -/
theorem InstrEffect.timerAcc_eq (h : InstrEffect s i t) : t.timerAcc = s.timerAcc := by
  cases h <;> simp

/-- An advance or a skip from the fetch window does not wrap (10_state.md R27). -/
theorem pc_add_le {pc d : Word} (window : pc.toNat ≤ 0xFFE) (short : d.toNat ≤ 4) : (pc + d).toNat ≤ 0x10FE := by
  bv_omega

/-- From the fetch window no instruction takes the pc above 0x10FE, which JP V0 alone reaches (10_state.md R27). -/
theorem InstrEffect.pc_le (h : InstrEffect s i t) (inv : s.Inv) (window : s.pc.toNat ≤ 0xFFE) :
    t.pc.toNat ≤ 0x10FE := by
  cases h
  case ret live =>
    have top := inv.stackTop_le live
    simp only [State.popReturn_pc, State.setPc_pc]
    omega
  case skip cond _ => exact pc_add_le window (by cases cond <;> decide)
  case call | jp | jpV0 => simp only [State.setPc_pc]; bv_omega
  case underflow | overflow | overrun | wait => simpa using inv.pcLe
  all_goals simpa using pc_add_le window (d := 2) (by decide)

/-- The entry a CALL from the fetch window pushes is a return address, and a RET leaves the entries below
(10_state.md R28, 41_control_flow.md R124). -/
theorem InstrEffect.liveEntries (h : InstrEffect s i t) (inv : s.Inv)
    (window : 0x200 ≤ s.pc.toNat ∧ s.pc.toNat ≤ 0xFFE) (k : Nat) (lt : k < 16) (live : k < t.sp.val) :
    0x202 ≤ t.stack[k].toNat ∧ t.stack[k].toNat ≤ 0x1000 := by
  cases h
  case call room =>
    rw [State.setPc_sp, s.pushReturn_sp_val _ (by omega)] at live
    simp only [State.setPc_stack, s.pushReturn_stack_get _ k lt]
    split
    case isTrue => bv_omega
    case isFalse older => exact inv.liveEntries k lt (by omega)
  case ret =>
    rw [State.popReturn_sp_val, State.setPc_sp] at live
    exact inv.liveEntries k lt (by omega)
  all_goals simpa using inv.liveEntries k lt (by simpa using live)

/-- A running core either halts on a fault, or begins the wait where it stands, or runs on; in the last two cases
without writing the record (10_state.md R37, 60_exceptions.md R203). -/
theorem InstrEffect.status_cases (h : InstrEffect s i t) :
    (∃ kind addr, t = s.raise kind addr) ∨
      t.fault = s.fault ∧ (t.runState = s.runState ∨ ∃ x, t = s.setRunState (.awaitingKey x)) := by
  cases h
  case underflow | overflow | overrun => exact .inl ⟨_, _, rfl⟩
  case wait => exact .inr ⟨rfl, .inr ⟨_, rfl⟩⟩
  all_goals exact .inr ⟨by simp, .inl (by simp)⟩

/-! ### Every part of a step keeps the invariant -/

theorem State.Inv.tookCall (inv : s.Inv) : s.tookCall.Inv := { inv with }

theorem State.Inv.latchInputs (inv : s.Inv) (keys : Word) (b : Byte) : (s.latchInputs keys b).Inv := { inv with }

/-- A fault keeps the pc it records and halts (60_exceptions.md R203). -/
theorem State.Inv.raise (inv : s.Inv) (kind : FaultKind) (addr : Nat) : (s.raise kind addr).Inv :=
  { inv with
    waitPc := by simp
    haltedIff := by simp
    faultPc := by simp }

/-- Every instruction fetched in the window keeps the invariant of a running core. -/
theorem InstrEffect.keeps_inv (h : InstrEffect s i t) (inv : s.Inv) (running : s.runState = .running)
    (window : 0x200 ≤ s.pc.toNat ∧ s.pc.toNat ≤ 0xFFE) : t.Inv := by
  obtain ⟨kind, addr, rfl⟩ | ⟨sameFault, status⟩ := h.status_cases
  · exact inv.raise kind addr
  · have noFault : t.fault = none := by
      rw [sameFault, inv.fault_eq_none (by simp [running])]
    have live : t.runState ≠ .halted := by
      obtain same | ⟨x, rfl⟩ := status <;> simp [*]
    exact {
      memWf := h.mem_wf inv.memWf
      indexLe := h.i_eq.elim (fun same => same ▸ inv.indexLe) And.right
      pcLe := h.pc_le inv window.2
      accLt := h.timerAcc_eq ▸ inv.accLt
      liveEntries := h.liveEntries inv window
      waitPc := by
        obtain same | ⟨x, rfl⟩ := status
        · simp [same, running]
        · exact fun _ _ => window
      haltedIff := by simp [noFault, live]
      faultPc := by simp [noFault] }

/-- UNKNOWN takes the generic advance (40_cycle.md R107). -/
theorem State.Inv.unknown (inv : s.Inv) (running : s.runState = .running) (window : s.pc.toNat ≤ 0xFFE) :
    s.countUnknown.advance.Inv :=
  { inv with
    pcLe := pc_add_le window (by decide)
    waitPc := by simp [running]
    faultPc := by simp [inv.fault_eq_none (by simp [running])] }

/-- A running cycle faults on its fetch, or runs an instruction, or skips an UNKNOWN word (40_cycle.md R100). -/
theorem State.Inv.fetchExecute (inv : s.Inv) (running : s.runState = .running) (h : fetchExecute s = .next t) :
    t.Inv := by
  cases fetch : fetchViolation s.pc with
  | some a =>
    rw [fetchExecute_of_violation s fetch] at h
    cases h
    exact inv.raise _ _
  | none =>
    have window := (fetchViolation_eq_none s.pc).1 fetch
    rw [fetchExecute_of_window s fetch] at h
    cases op : (decode s.fetchWord).uop with
    | known i =>
      rw [op] at h
      exact (InstrEffect.of_exec h).keeps_inv inv running window
    | unknown w =>
      rw [op] at h
      cases h
      exact inv.unknown running window.2

/-- The wait ends past the Fx0A word, which stood in the fetch window (45_timers_keys.md R185). -/
theorem State.Inv.waitStep (inv : s.Inv) {r : Nibble} (waiting : s.runState = .awaitingKey r) :
    (s.waitStep r).Inv := by
  obtain ⟨-, eq⟩ | ⟨k, -, -, -, eq⟩ := s.waitStep_cases r
  · rwa [eq]
  · have window := inv.waitPc r waiting
    have noFault := inv.fault_eq_none (by simp [waiting])
    rw [eq]
    exact { inv with
      pcLe := pc_add_le window.2 (by decide)
      waitPc := by simp
      haltedIff := by simp [noFault]
      faultPc := by simp [noFault] }

theorem State.Inv.cpuStep (inv : s.Inv) (keys : Word) (b : Byte) (h : cpuStep keys b s = .next t) : t.Inv := by
  cases status : s.runState with
  | halted =>
    rw [cpuStep_halted s keys b status] at h
    cases h
    exact inv
  | awaitingKey r =>
    rw [cpuStep_awaitingKey s keys b status] at h
    cases h
    exact (inv.latchInputs keys b).waitStep status
  | running =>
    rw [cpuStep_running s keys b status] at h
    exact (inv.latchInputs keys b).fetchExecute status h

/-- The accumulator is the remainder by the unit, whatever the unit is (60_exceptions.md R211). -/
theorem State.Inv.timerStep (inv : s.Inv) (elapsed : Nat) :
    (s.timerStep Config.timerUnitsPerSecond elapsed).Inv := by
  by_cases halted : s.runState = .halted
  · rwa [s.timerStep_halted _ _ halted]
  · rw [s.timerStep_live _ _ halted]
    exact { inv with accLt := Nat.mod_lt _ Config.timerUnits_pos }

theorem State.reset_inv : State.reset.Inv where
  memWf := State.reset_mem_wf
  indexLe := by decide
  pcLe := by decide
  accLt := Config.timerUnits_pos
  liveEntries _ _ live := absurd live (Nat.not_lt_zero _)
  waitPc _ waiting := nomatch waiting
  haltedIff := by decide
  faultPc _ recorded := nomatch recorded

/-- A fresh core is the reset state with a ROM that fits listed (70_reset_and_hazards.md R230 to R232). -/
theorem construct_inv {rom : List Byte} (h : construct rom s = .next t) : t.Inv := by
  by_cases fits : rom.length ≤ Config.progMax
  · rw [construct_of_fits s rom fits] at h
    cases h
    exact { State.reset_inv with memWf := Memory.wf_image fits }
  · rw [construct, if_pos (by omega)] at h
    cases h

/-- Each of the host's transactions keeps the invariant (60_exceptions.md R214). -/
theorem State.Inv.hostStep (inv : s.Inv) (c : HostCall) (h : hostStep c s = .next t) : t.Inv := by
  cases c with
  | construct rom => exact construct_inv h
  | cpuStep keys b => exact inv.cpuStep keys b h
  | timerStep elapsed =>
    cases h
    exact inv.timerStep elapsed

end Sys2Proof.Machine

open Sys2Proof Sys2Proof.Machine

/-- Settles O17: taking the call leaves the core alone, and each transaction keeps the invariant. -/
theorem stepKeepsInv : Obligations.StepKeepsInv := by
  intro s t inv h
  exact inv.tookCall.hostStep s.nextCall h

/-- Settles O48: each of the three is its effect behind the address check, and the check answers the fault. -/
theorem outOfRangeAccessHalts : Obligations.OutOfRangeAccessHalts := by
  intro x y n s
  constructor
  · intro past
    have halts (effect : State) := guardAddresses_eq_haltedWith (Nat.succ_pos x.toNat) past effect
    exact ⟨congrArg _ (halts _), congrArg _ (halts _)⟩
  · intro rows past
    have pos : 0 < n.toNat := by bv_omega
    exact congrArg _ (guardAddresses_eq_haltedWith pos past _)

/-- Settles O49: the two stored bytes stand at the pc the store leaves, and read back as V0 and V1. -/
theorem storeThenFetch : Obligations.StoreThenFetch := by
  intro s wf fits next
  have rises := ((Memory.wf_iff s.mem).1 wf).1
  have stored (k : Nat) (lt : k < 2) :
      (s.mem.writeBytes (s.ea 0) (s.regBlock 1#4)).read ((s.pc + 2).toNat + k) = s.reg (BitVec.ofNat 4 k) := by
    rw [← next, Memory.read_writeBytes_inside rises _ _ (by simpa using lt), State.regBlock_get]
  refine ⟨_, exec_ldMemVx_of_fits fits, ?_⟩
  exact congrArg₂ wordOfBytes (stored 0 (by decide)) (stored 1 (by decide))

/-- Settles O9: the word is the two bytes appended, and the example is the word of its two bytes. -/
theorem fetchIsBigEndian : Obligations.FetchIsBigEndian := by
  intro s
  refine ⟨wordOfBytes_toNat _ _, fun hi lo => ?_⟩
  rw [State.fetchWord, hi, lo]
  rfl
end

section
/-!
SUPPORT. The decoder and the encoder by the fields of a word: what the fields of an appended word are, how a word is
put together from its fields, and what the decoder reads from a word of each family (30_encoding.md R71 to R78).
-/

namespace Sys2Proof

variable {w : Word}

/-! ### The fields of an appended word -/

theorem append_byte (p x : Nibble) (b : Byte) : p ++ x ++ b = p ++ (x ++ b) := BitVec.append_assoc

theorem append_nibbles (p x y n : Nibble) : p ++ x ++ y ++ n = p ++ x ++ (y ++ n) := BitVec.append_assoc

@[simp] theorem fieldOp_address (p : Nibble) (a : Addr) : fieldOp (p ++ a) = p := BitVec.extractLsb'_append_eq_left

@[simp] theorem fieldNNN_address (p : Nibble) (a : Addr) : fieldNNN (p ++ a) = a := BitVec.extractLsb'_append_eq_right

@[simp] theorem fieldOp_registerByte (p x : Nibble) (b : Byte) : fieldOp (p ++ x ++ b) = p :=
  (congrArg fieldOp (append_byte p x b)).trans (fieldOp_address p _)

@[simp] theorem fieldX_registerByte (p x : Nibble) (b : Byte) : fieldX (p ++ x ++ b) = x :=
  (BitVec.extractLsb'_append_eq_of_le (by decide)).trans BitVec.extractLsb'_append_eq_right

@[simp] theorem fieldNN_registerByte (p x : Nibble) (b : Byte) : fieldNN (p ++ x ++ b) = b :=
  BitVec.extractLsb'_append_eq_right

@[simp] theorem fieldOp_nibbles (p x y n : Nibble) : fieldOp (p ++ x ++ y ++ n) = p :=
  (congrArg fieldOp (append_nibbles p x y n)).trans (fieldOp_registerByte p x _)

@[simp] theorem fieldX_nibbles (p x y n : Nibble) : fieldX (p ++ x ++ y ++ n) = x :=
  (congrArg fieldX (append_nibbles p x y n)).trans (fieldX_registerByte p x _)

@[simp] theorem fieldY_nibbles (p x y n : Nibble) : fieldY (p ++ x ++ y ++ n) = y :=
  (BitVec.extractLsb'_append_eq_of_le (by decide)).trans BitVec.extractLsb'_append_eq_right

@[simp] theorem fieldN_nibbles (p x y n : Nibble) : fieldN (p ++ x ++ y ++ n) = n := BitVec.extractLsb'_append_eq_right

/-! ### A word put together from its fields -/

theorem address_fields (w : Word) : fieldOp w ++ fieldNNN w = w :=
  (BitVec.extractLsb'_append_extractLsb'_eq_extractLsb' rfl).trans BitVec.extractLsb'_eq_self

theorem registerByte_fields (w : Word) : fieldOp w ++ fieldX w ++ fieldNN w = w := by
  have low : fieldX w ++ fieldNN w = fieldNNN w := BitVec.extractLsb'_append_extractLsb'_eq_extractLsb' rfl
  rw [append_byte, low, address_fields]

theorem nibbles_fields (w : Word) : fieldOp w ++ fieldX w ++ fieldY w ++ fieldN w = w := by
  have low : fieldY w ++ fieldN w = fieldNN w := BitVec.extractLsb'_append_extractLsb'_eq_extractLsb' rfl
  rw [append_nibbles, low, registerByte_fields]

/-! ### The masks of the opcode map, by fields (30_encoding.md R73) -/

theorem and_opMask (w : Word) : w &&& 0xF000#16 = fieldOp w ++ 0#12 := by
  conv_lhs => rw [← address_fields w]
  exact Laws.EncodingPattern.mask_address _ _

theorem and_nibbleMask (w : Word) : w &&& 0xF00F#16 = fieldOp w ++ 0#4 ++ 0#4 ++ fieldN w := by
  conv_lhs => rw [← nibbles_fields w]
  exact Laws.EncodingPattern.mask_registers_selector _ _ _ _

theorem and_byteMask (w : Word) : w &&& 0xF0FF#16 = fieldOp w ++ 0#4 ++ fieldNN w := by
  conv_lhs => rw [← registerByte_fields w]
  exact Laws.EncodingPattern.mask_register _ _ _

/-- The bits a row with `n` ignored uses (30_encoding.md R76). -/
theorem and_withoutN (w : Word) : w &&& 0xFFF0#16 = fieldOp w ++ fieldX w ++ fieldY w ++ 0#4 := by
  conv_lhs => rw [← nibbles_fields w]
  show (fieldOp w ++ fieldX w ++ fieldY w ++ fieldN w) &&& (0xF#4 ++ 0xF#4 ++ 0xF#4 ++ 0x0#4) =
    fieldOp w ++ fieldX w ++ fieldY w ++ 0#4
  simp only [BitVec.and_append]
  congr 1
  · congr 1
    · congr 1 <;> exact BitVec.and_allOnes
    · exact BitVec.and_allOnes
  · exact BitVec.and_zero

/-- The bits a row with `y` ignored uses (30_encoding.md R72). -/
theorem and_withoutY (w : Word) : w &&& 0xFF0F#16 = fieldOp w ++ fieldX w ++ 0#4 ++ fieldN w := by
  conv_lhs => rw [← nibbles_fields w]
  show (fieldOp w ++ fieldX w ++ fieldY w ++ fieldN w) &&& (0xF#4 ++ 0xF#4 ++ 0x0#4 ++ 0xF#4) =
    fieldOp w ++ fieldX w ++ 0#4 ++ fieldN w
  simp only [BitVec.and_append]
  congr 1
  · congr 1
    · congr 1 <;> exact BitVec.and_allOnes
    · exact BitVec.and_zero
  · exact BitVec.and_allOnes

/-! ### Decoding an encoded instruction -/

/-- A SYS that is well formed is neither the word of CLS nor that of RET (30_encoding.md R75). -/
theorem decodeFamily0_sys {a : Addr} (notCls : a ≠ 0x0E0#12) (notRet : a ≠ 0x0EE#12) :
    decodeFamily0 (0x0#4 ++ a) = .known (.sys a) := by
  have clsWord : 0x0#4 ++ a ≠ 0x00E0#16 := mt (BitVec.append_right_inj (t₂ := 0x0E0#12) _).1 notCls
  have retWord : 0x0#4 ++ a ≠ 0x00EE#16 := mt (BitVec.append_right_inj (t₂ := 0x0EE#12) _).1 notRet
  rw [decodeFamily0, if_neg clsWord, if_neg retWord, fieldNNN_address]

/-- The selectors of an encoded word lead the decoder to its row, and the fields give its operands back. -/
theorem decodeOp_encode {i : Instr} (wf : i.wellFormed = true) : decodeOp (encode i) = .known i := by
  cases i
  case cls | ret => rfl
  case sys a =>
    obtain ⟨notCls, notRet⟩ : a ≠ 0x0E0#12 ∧ a ≠ 0x0EE#12 := by simpa [Instr.wellFormed] using wf
    simp [encode, decodeOp, decodeFamily0_sys notCls notRet]
  case ldReg | orReg | andReg | xorReg | addReg | subReg | shr | subnReg | shl =>
    simp [encode, decodeOp, decodeFamily8]
  case skp | sknp => simp [encode, decodeOp, decodeFamilyE]
  case ldVxDt | ldVxK | ldDtVx | ldStVx | addI | ldF | ldB | ldMemVx | ldVxMem =>
    simp [encode, decodeOp, decodeFamilyF]
  all_goals simp [encode, decodeOp]

/-! ### An appended word as its match with the operands shifted into place (30_encoding.md R83) -/

theorem address_eq_or (p : Nibble) (a : Addr) : p ++ a = (p ++ 0#12) ||| a.setWidth 16 := by
  have shifted (a : Addr) : p ++ a = p.setWidth 16 <<< 12 ||| a.setWidth 16 := by
    rw [← BitVec.setWidth_append_eq_shiftLeft_setWidth_or, BitVec.setWidth_eq]
  simp [shifted]

theorem registerByte_eq_shifts (p x : Nibble) (b : Byte) :
    p ++ x ++ b = p.setWidth 16 <<< 12 ||| x.setWidth 16 <<< 8 ||| b.setWidth 16 :=
  (BitVec.setWidth_eq _).symm.trans BitVec.setWidth_append_append_eq_shiftLeft_setWidth_or

theorem nibbles_eq_shifts (p x y n : Nibble) : p ++ x ++ y ++ n =
    p.setWidth 16 <<< 12 ||| x.setWidth 16 <<< 8 ||| y.setWidth 16 <<< 4 ||| n.setWidth 16 :=
  (BitVec.setWidth_eq _).symm.trans BitVec.setWidth_append_append_append_eq_shiftLeft_setWidth_or

theorem registerByte_eq_or (p x : Nibble) (b : Byte) :
    p ++ x ++ b = (p ++ 0#4 ++ 0#8) ||| (x.setWidth 16 <<< 8 ||| b.setWidth 16) := by
  simp [registerByte_eq_shifts, BitVec.or_assoc]

theorem register_eq_or (p x : Nibble) (b : Byte) : p ++ x ++ b = (p ++ 0#4 ++ b) ||| x.setWidth 16 <<< 8 := by
  simp only [registerByte_eq_shifts, BitVec.setWidth_zero, BitVec.zero_shiftLeft, BitVec.or_zero]
  ac_rfl

theorem registers_eq_or (p x y n : Nibble) :
    p ++ x ++ y ++ n = (p ++ 0#4 ++ 0#4 ++ n) ||| (x.setWidth 16 <<< 8 ||| y.setWidth 16 <<< 4) := by
  simp only [nibbles_eq_shifts, BitVec.setWidth_zero, BitVec.zero_shiftLeft, BitVec.or_zero]
  ac_rfl

theorem registersNibble_eq_or (p x y n : Nibble) : p ++ x ++ y ++ n =
    (p ++ 0#4 ++ 0#4 ++ 0#4) ||| (x.setWidth 16 <<< 8 ||| y.setWidth 16 <<< 4 ||| n.setWidth 16) := by
  simp [nibbles_eq_shifts, BitVec.or_assoc]

theorem registerNibble_eq_or (p x n : Nibble) :
    p ++ x ++ 0#4 ++ n = (p ++ 0#4 ++ (0#4 ++ n)) ||| x.setWidth 16 <<< 8 := by
  rw [append_nibbles, register_eq_or]

theorem encode_eq_or (i : Instr) : encode i = i.rowMatch ||| operandBits i := by
  cases i
  case cls | ret => rfl
  case sys | jp | call | ldI | jpV0 => exact address_eq_or _ _
  case seImm | sneImm | ldImm | addImm | rnd => exact registerByte_eq_or _ _ _
  case seReg | sneReg | ldReg | orReg | andReg | xorReg | addReg | subReg | subnReg => exact registers_eq_or _ _ _ _
  case drw => exact registersNibble_eq_or _ _ _ _
  case shr | shl => exact registerNibble_eq_or _ _ _
  case skp | sknp | ldVxDt | ldVxK | ldDtVx | ldStVx | addI | ldF | ldB | ldMemVx | ldVxMem =>
    exact register_eq_or _ _ _

/-! ### What the decoder reads from a word -/

/-- All the values of a selector nibble, for a case that leaves only those not named before. -/
theorem nibble_mem_all : ∀ p : Nibble, p ∈ [0x0#4, 0x1#4, 0x2#4, 0x3#4, 0x4#4, 0x5#4, 0x6#4, 0x7#4, 0x8#4, 0x9#4,
    0xA#4, 0xB#4, 0xC#4, 0xD#4, 0xE#4, 0xF#4] := by decide

/-- The words of no operation, by their selectors (30_encoding.md R77, R78). -/
def IsUnknown (w : Word) : Prop :=
  (fieldOp w = 0x8#4 ∧ fieldN w ∈ [0x8#4, 0x9#4, 0xA#4, 0xB#4, 0xC#4, 0xD#4, 0xF#4]) ∨
    (fieldOp w = 0xE#4 ∧ fieldNN w ∉ [0x9E#8, 0xA1#8]) ∨
    (fieldOp w = 0xF#4 ∧
      fieldNN w ∉ [0x07#8, 0x0A#8, 0x15#8, 0x18#8, 0x1E#8, 0x29#8, 0x33#8, 0x55#8, 0x65#8])

/-- An operation that is a right reading of a word: an instruction whose encoding is the word with its ignored bits 0,
or UNKNOWN for a word of no operation (30_encoding.md R74, R83). -/
def MicroOp.Reads (w : Word) : MicroOp → Prop
  | .known i => i.wellFormed = true ∧ encode i = w &&& i.usedBits
  | .unknown v => v = w ∧ IsUnknown w

/-- A row that ignores no bit reads the word it encodes to. -/
theorem MicroOp.Reads.of_encode {i : Instr} (wf : i.wellFormed = true) (used : i.usedBits = BitVec.allOnes 16)
    (eq : encode i = w) : (MicroOp.known i).Reads w :=
  ⟨wf, by rw [used, BitVec.and_allOnes, eq]⟩

/-- Family 0 is SYS but for the exact words of CLS and RET (30_encoding.md R75). -/
theorem decodeFamily0_reads (op : fieldOp w = 0x0#4) : (decodeFamily0 w).Reads w := by
  have eq : 0x0#4 ++ fieldNNN w = w := by rw [← op, address_fields]
  unfold decodeFamily0
  split
  case isTrue cls => exact .of_encode rfl rfl cls.symm
  case isFalse notCls =>
    split
    case isTrue ret => exact .of_encode rfl rfl ret.symm
    case isFalse notRet =>
      have wf : (Instr.sys (fieldNNN w)).wellFormed = true := by
        simp only [Instr.wellFormed, Bool.and_eq_true, bne_iff_ne]
        exact ⟨fun h => notCls (by rw [← eq, h]; rfl), fun h => notRet (by rw [← eq, h]; rfl)⟩
      exact .of_encode wf rfl eq

/-- Family 8 reads its selector `n`, and the two shifts ignore `y` (30_encoding.md R72, R77). -/
theorem decodeFamily8_reads (op : fieldOp w = 0x8#4) : (decodeFamily8 w).Reads w := by
  have eq {n : Nibble} (sel : fieldN w = n) : 0x8#4 ++ fieldX w ++ fieldY w ++ n = w := by
    rw [← op, ← sel, nibbles_fields]
  have shift {n : Nibble} (sel : fieldN w = n) : 0x8#4 ++ fieldX w ++ 0#4 ++ n = w &&& 0xFF0F#16 := by
    rw [and_withoutY, op, sel]
  unfold decodeFamily8
  split
  case h_7 sel | h_9 sel => exact ⟨rfl, shift sel⟩
  case h_10 =>
    have all := nibble_mem_all (fieldN w)
    exact ⟨rfl, .inl ⟨op, by simp_all⟩⟩
  all_goals next sel => exact .of_encode rfl rfl (eq sel)

/-- Family E reads its selector `nn` (30_encoding.md R78). -/
theorem decodeFamilyE_reads (op : fieldOp w = 0xE#4) : (decodeFamilyE w).Reads w := by
  have eq {b : Byte} (sel : fieldNN w = b) : 0xE#4 ++ fieldX w ++ b = w := by rw [← op, ← sel, registerByte_fields]
  unfold decodeFamilyE
  split
  case h_3 => exact ⟨rfl, .inr (.inl ⟨op, by simp_all⟩)⟩
  all_goals next sel => exact .of_encode rfl rfl (eq sel)

/-- Family F reads its selector `nn` (30_encoding.md R78). -/
theorem decodeFamilyF_reads (op : fieldOp w = 0xF#4) : (decodeFamilyF w).Reads w := by
  have eq {b : Byte} (sel : fieldNN w = b) : 0xF#4 ++ fieldX w ++ b = w := by rw [← op, ← sel, registerByte_fields]
  unfold decodeFamilyF
  split
  case h_10 => exact ⟨rfl, .inr (.inr ⟨op, by simp_all⟩)⟩
  all_goals next sel => exact .of_encode rfl rfl (eq sel)

/-- The decoder reads every word rightly: one case for each primary selector (30_encoding.md R74). -/
theorem decodeOp_reads (w : Word) : (decodeOp w).Reads w := by
  unfold decodeOp
  split
  case h_1 op => exact decodeFamily0_reads op
  case h_9 op => exact decodeFamily8_reads op
  case h_15 op => exact decodeFamilyE_reads op
  case h_16 =>
    have all := nibble_mem_all (fieldOp w)
    exact decodeFamilyF_reads (by simp_all)
  case h_6 op | h_10 op => exact ⟨rfl, by rw [Instr.usedBits, and_withoutN, op, encode]⟩
  case h_14 op => exact .of_encode rfl rfl (by rw [encode, ← op, nibbles_fields])
  case h_2 op | h_3 op | h_11 op | h_12 op => exact .of_encode rfl rfl (by rw [encode, ← op, address_fields])
  all_goals next op => exact .of_encode rfl rfl (by rw [encode, ← op, registerByte_fields])

end Sys2Proof

open Sys2Proof

/-- Settles O1: the selectors of an encoded word lead the decoder back to its row. -/
theorem decodeEncodeRoundTrip : Obligations.DecodeEncodeRoundTrip := fun _ wf => decodeOp_encode wf

/-- Settles O2, by the format of the instruction's word. -/
theorem encodeIsMatchWithOperands : Obligations.EncodeIsMatchWithOperands := encode_eq_or

/-- Settles O4: the decoder reads every word rightly, and a right reading that is an instruction is what O4 asks. -/
theorem encodeDecodeKeepsUsedBits : Obligations.EncodeDecodeKeepsUsedBits := by
  intro w i op
  have reads := decodeOp_reads w
  rwa [show decodeOp w = .known i from op] at reads
end

section
/-!
SUPPORT. The opcode map by fields, and the numbers of the UNKNOWN words: a row selects a word by its word, its primary
selector, or its primary and secondary selector (30_encoding.md R73, R77 to R79).
-/

namespace Sys2Proof

/-! ### Fields as numbers (30_encoding.md R71) -/

/-- A field is the word's bits under the field's mask, shifted down. -/
theorem extract_toNat_eq_mask (w : Word) (start len : Nat) :
    (w.extractLsb' start len).toNat = (w.toNat &&& (2 ^ len - 1) <<< start) >>> start := by
  rw [BitVec.extractLsb'_toNat, Nat.shiftRight_and_distrib, Nat.shiftLeft_shiftRight, Nat.and_two_pow_sub_one_eq_mod]

theorem fieldOp_toNat (w : Word) : (fieldOp w).toNat = w.toNat / 0x1000 := by
  rw [fieldOp, BitVec.extractLsb'_toNat]
  omega

theorem fieldN_toNat (w : Word) : (fieldN w).toNat = w.toNat % 0x10 := BitVec.extractLsb'_toNat ..

theorem fieldNN_toNat (w : Word) : (fieldNN w).toNat = w.toNat % 0x100 := BitVec.extractLsb'_toNat ..

/-! ### The rows by the selectors they compare -/

/-- A row of family 0 that selects one word only. -/
def wordRow (number : Nat) (v : Word) : TableRow := ⟨number, v, 0xFFFF#16⟩

/-- A row that selects on the primary selector. -/
def opRow (number : Nat) (p : Nibble) : TableRow := ⟨number, p ++ 0#12, 0xF000#16⟩

/-- A row that selects on `op` and `n`. -/
def nibbleRow (number : Nat) (p n : Nibble) : TableRow := ⟨number, p ++ 0#4 ++ 0#4 ++ n, 0xF00F#16⟩

/-- A row that selects on `op` and `nn`. -/
def byteRow (number : Nat) (p : Nibble) (b : Byte) : TableRow := ⟨number, p ++ 0#4 ++ b, 0xF0FF#16⟩

theorem opcodeRows_eq : opcodeRows =
    [wordRow 1 0x00E0#16, wordRow 2 0x00EE#16, opRow 3 0x0#4, opRow 4 0x1#4, opRow 5 0x2#4, opRow 6 0x3#4,
      opRow 7 0x4#4, opRow 8 0x5#4, opRow 9 0x6#4, opRow 10 0x7#4, nibbleRow 11 0x8#4 0x0#4, nibbleRow 12 0x8#4 0x1#4,
      nibbleRow 13 0x8#4 0x2#4, nibbleRow 14 0x8#4 0x3#4, nibbleRow 15 0x8#4 0x4#4, nibbleRow 16 0x8#4 0x5#4,
      nibbleRow 17 0x8#4 0x6#4, nibbleRow 18 0x8#4 0x7#4, nibbleRow 19 0x8#4 0xE#4, opRow 20 0x9#4, opRow 21 0xA#4,
      opRow 22 0xB#4, opRow 23 0xC#4, opRow 24 0xD#4, byteRow 25 0xE#4 0x9E#8, byteRow 26 0xE#4 0xA1#8,
      byteRow 27 0xF#4 0x07#8, byteRow 28 0xF#4 0x0A#8, byteRow 29 0xF#4 0x15#8, byteRow 30 0xF#4 0x18#8,
      byteRow 31 0xF#4 0x1E#8, byteRow 32 0xF#4 0x29#8, byteRow 33 0xF#4 0x33#8, byteRow 34 0xF#4 0x55#8,
      byteRow 35 0xF#4 0x65#8] := rfl

section
variable (k : Nat) (p n : Nibble) (b : Byte) (v w : Word)

@[simp] theorem wordRow_number : (wordRow k v).number = k := rfl

@[simp] theorem opRow_number : (opRow k p).number = k := rfl

@[simp] theorem nibbleRow_number : (nibbleRow k p n).number = k := rfl

@[simp] theorem byteRow_number : (byteRow k p b).number = k := rfl

@[simp] theorem wordRow_selects : (wordRow k v).selects w = decide (w = v) := by
  show (w &&& BitVec.allOnes 16 == v) = decide (w = v)
  rw [BitVec.and_allOnes, beq_eq_decide]

@[simp] theorem opRow_selects : (opRow k p).selects w = decide (fieldOp w = p) := by
  show (w &&& 0xF000#16 == p ++ 0#12) = decide (fieldOp w = p)
  rw [and_opMask, beq_eq_decide, decide_eq_decide, BitVec.append_left_inj]

@[simp] theorem nibbleRow_selects : (nibbleRow k p n).selects w = decide (fieldOp w = p ∧ fieldN w = n) := by
  show (w &&& 0xF00F#16 == p ++ 0#4 ++ 0#4 ++ n) = decide (fieldOp w = p ∧ fieldN w = n)
  rw [and_nibbleMask, beq_eq_decide, decide_eq_decide]
  refine ⟨fun eq => ⟨?_, ?_⟩, fun ⟨op, sel⟩ => by rw [op, sel]⟩
  · simpa using congrArg fieldOp eq
  · simpa using congrArg fieldN eq

@[simp] theorem byteRow_selects : (byteRow k p b).selects w = decide (fieldOp w = p ∧ fieldNN w = b) := by
  show (w &&& 0xF0FF#16 == p ++ 0#4 ++ b) = decide (fieldOp w = p ∧ fieldNN w = b)
  rw [and_byteMask, beq_eq_decide, decide_eq_decide]
  refine ⟨fun eq => ⟨?_, ?_⟩, fun ⟨op, sel⟩ => by rw [op, sel]⟩
  · simpa using congrArg fieldOp eq
  · simpa using congrArg fieldNN eq

end

/-! ### The row of a decoded word -/

/-- The two rows of one word each are rows of family 0. -/
theorem ne_wordRows {w : Word} {p : Nibble} (op : fieldOp w = p) (ne : p ≠ 0x0#4) :
    w ≠ 0x00E0#16 ∧ w ≠ 0x00EE#16 := by
  constructor <;> rintro rfl <;> exact ne op.symm

/-- In each family the case analysis of the decoder is the order of the family's rows. -/
theorem decodeOp_rowNumber (w : Word) : (decodeOp w).rowNumber = firstRow w := by
  rw [firstRow, opcodeRows_eq]
  unfold decodeOp
  split
  case h_1 op =>
    by_cases cls : w = 0x00E0#16
    · subst cls; rfl
    by_cases ret : w = 0x00EE#16
    · subst ret; rfl
    simp [decodeFamily0, MicroOp.rowNumber, Instr.rowNumber, op, cls, ret]
  case h_9 op =>
    obtain ⟨notCls, notRet⟩ := ne_wordRows op (by decide)
    unfold decodeFamily8
    split <;> simp_all [MicroOp.rowNumber, Instr.rowNumber]
  case h_15 op =>
    obtain ⟨notCls, notRet⟩ := ne_wordRows op (by decide)
    unfold decodeFamilyE
    split <;> simp_all [MicroOp.rowNumber, Instr.rowNumber]
  case h_16 =>
    have all := nibble_mem_all (fieldOp w)
    have op : fieldOp w = 0xF#4 := by simp_all
    obtain ⟨notCls, notRet⟩ := ne_wordRows op (by decide)
    unfold decodeFamilyF
    split <;> simp_all [MicroOp.rowNumber, Instr.rowNumber]
  all_goals next op =>
    obtain ⟨notCls, notRet⟩ := ne_wordRows op (by decide)
    simp [MicroOp.rowNumber, Instr.rowNumber, op, notCls, notRet]

/-! ### The UNKNOWN words -/

theorem decodeOp_of_isUnknown {w : Word} (h : IsUnknown w) : decodeOp w = .unknown w := by
  obtain ⟨op, sel⟩ | ⟨op, sel⟩ | ⟨op, sel⟩ := h
  · simp only [List.mem_cons, List.not_mem_nil, or_false] at sel
    obtain sel | sel | sel | sel | sel | sel | sel := sel <;> simp [decodeOp, decodeFamily8, op, sel]
  · simp_all [decodeOp, decodeFamilyE]
  · simp_all [decodeOp, decodeFamilyF]

theorem decodeOp_eq_unknown_iff (w : Word) : decodeOp w = .unknown w ↔ IsUnknown w := by
  refine ⟨fun eq => ?_, decodeOp_of_isUnknown⟩
  have reads := decodeOp_reads w
  rw [eq] at reads
  exact reads.2

theorem rowNumber_eq_36_iff (w : Word) : (decodeOp w).rowNumber = 36 ↔ IsUnknown w := by
  rw [← decodeOp_eq_unknown_iff]
  have reads := decodeOp_reads w
  cases op : decodeOp w with
  | known i => cases i <;> simp [MicroOp.rowNumber, Instr.rowNumber]
  | unknown v =>
    rw [op] at reads
    simp [MicroOp.rowNumber, reads.1]

/-- The numbers of the UNKNOWN words (30_encoding.md R77, R78). -/
abbrev UnknownNumber (k : Nat) : Prop :=
  (k / 0x1000 = 0x8 ∧ k % 0x10 ∈ [0x8, 0x9, 0xA, 0xB, 0xC, 0xD, 0xF]) ∨
    (k / 0x1000 = 0xE ∧ k % 0x100 ∉ [0x9E, 0xA1]) ∨
    (k / 0x1000 = 0xF ∧ k % 0x100 ∉ [0x07, 0x0A, 0x15, 0x18, 0x1E, 0x29, 0x33, 0x55, 0x65])

theorem isUnknown_iff (w : Word) : IsUnknown w ↔ UnknownNumber w.toNat := by
  simp [IsUnknown, UnknownNumber, ← BitVec.toNat_inj, fieldOp_toNat, fieldN_toNat, fieldNN_toNat]

/-! ### Counting them (30_encoding.md R79) -/

theorem length_filter_range (p : Nat → Prop) [DecidablePred p] (n : Nat) :
    ((List.range n).filter fun k => p k).length = Nat.count p n := (Nat.count_eq_card_filter_range p n).symm

/-- A band of numbers past `lo` adds what a predicate that agrees on the band counts. -/
theorem count_band {p q : Nat → Prop} [DecidablePred p] [DecidablePred q] (lo len : Nat)
    (agree : ∀ j < len, p (lo + j) ↔ q j) : Nat.count p (lo + len) = Nat.count p lo + Nat.count q len := by
  rw [Nat.count_add]
  congr 1
  exact le_antisymm (Nat.count_mono_left fun j lt => (agree j lt).1) (Nat.count_mono_left fun j lt => (agree j lt).2)

/-- A predicate of the remainder recurs in every period. -/
theorem count_mod (p : Nat → Prop) [DecidablePred p] (period times : Nat) :
    Nat.count (fun k => p (k % period)) (period * times) = times * Nat.count p period := by
  induction times with
  | zero => simp
  | succ t ih =>
    have agree (j : Nat) (lt : j < period) : p ((period * t + j) % period) ↔ p j := by
      rw [Nat.mul_add_mod, Nat.mod_eq_of_lt lt]
    rw [Nat.mul_succ, count_band _ _ agree, ih, Nat.succ_mul]

/-- The numbers below `n` outside a list of some of them. -/
theorem count_not_mem {l : List Nat} {n : Nat} (nodup : l.Nodup) (lt : ∀ k ∈ l, k < n) :
    Nat.count (· ∉ l) n = n - l.length := by
  have outside : (Finset.range n).filter (· ∉ l) = Finset.range n \ l.toFinset := by ext; simp
  have sub : l.toFinset ⊆ Finset.range n := fun k mem => by simpa using lt k (by simpa using mem)
  rw [Nat.count_eq_card_filter_range, outside, Finset.card_sdiff_of_subset sub, List.toFinset_card_of_nodup nodup,
    Finset.card_range]

/-- A family whose UNKNOWN words are told by a selector adds, for each UNKNOWN value of the selector, one word in
every period. -/
theorem count_family (p : Nat → Prop) [DecidablePred p] (lo period times : Nat)
    (agree : ∀ j < period * times, UnknownNumber (lo + j) ↔ p (j % period)) :
    Nat.count UnknownNumber (lo + period * times) = Nat.count UnknownNumber lo + times * Nat.count p period := by
  rw [count_band lo _ agree, count_mod]

/-- Below family 8 no word is UNKNOWN. -/
theorem count_below8 : Nat.count UnknownNumber 0x8000 = 0 :=
  Nat.count_iff_forall_not.2 fun k lt => by omega

/-- Up to family 8: 7 selectors, 256 words each (30_encoding.md R77). -/
theorem count_below9 : Nat.count UnknownNumber 0x9000 = 1792 := by
  have added := count_family (· ∈ [0x8, 0x9, 0xA, 0xB, 0xC, 0xD, 0xF]) 0x8000 0x10 0x100 fun j lt => by
    have family : (0x8000 + j) / 0x1000 = 0x8 := by omega
    have sel : (0x8000 + j) % 0x10 = j % 0x10 := by omega
    simp [UnknownNumber, family, sel]
  have selectors : Nat.count (· ∈ [0x8, 0x9, 0xA, 0xB, 0xC, 0xD, 0xF]) 0x10 = 7 := by decide
  rw [count_below8, selectors] at added
  exact added

/-- Families 9 to D have no UNKNOWN word. -/
theorem count_belowE : Nat.count UnknownNumber 0xE000 = 1792 := by
  have added := count_family (fun _ => False) 0x9000 0x1000 5 fun j lt => by
    rw [iff_false]
    omega
  rwa [count_below9, Nat.count_false] at added

/-- Up to family E: 254 selectors more, 16 words each (30_encoding.md R78). -/
theorem count_belowF : Nat.count UnknownNumber 0xF000 = 1792 + 4064 := by
  have added := count_family (· ∉ [0x9E, 0xA1]) 0xE000 0x100 0x10 fun j lt => by
    have family : (0xE000 + j) / 0x1000 = 0xE := by omega
    have sel : (0xE000 + j) % 0x100 = j % 0x100 := by omega
    simp [UnknownNumber, family, sel]
  rwa [count_belowE, count_not_mem (by decide) (by decide)] at added

/-- Up to family F: 247 selectors more, 16 words each (30_encoding.md R78). -/
theorem count_unknownNumber : Nat.count UnknownNumber 0x10000 = 1792 + 4064 + 3952 := by
  have added := count_family (· ∉ [0x07, 0x0A, 0x15, 0x18, 0x1E, 0x29, 0x33, 0x55, 0x65]) 0xF000 0x100 0x10
    fun j lt => by
      have family : (0xF000 + j) / 0x1000 = 0xF := by omega
      have sel : (0xF000 + j) % 0x100 = j % 0x100 := by omega
      simp [UnknownNumber, family, sel]
  rwa [count_belowF, count_not_mem (by decide) (by decide)] at added

end Sys2Proof

open Sys2Proof

/-- Settles O3: the decoder's order of cases is the order of the rows. -/
theorem decodePicksFirstRow : Obligations.DecodePicksFirstRow := decodeOp_rowNumber

/-- Settles O5: the UNKNOWN words by their selectors, and these by number. -/
theorem unknownWordsAreThese : Obligations.UnknownWordsAreThese := fun w =>
  (decodeOp_eq_unknown_iff w).trans (isUnknown_iff w)

/-- Settles O6: row 36 is UNKNOWN, and the numbers of the UNKNOWN words are counted family by family. -/
theorem unknownWordCount : Obligations.UnknownWordCount := by
  have row (k : Nat) (mem : k ∈ List.range 65536) :
      ((decode (BitVec.ofNat 16 k)).uop.rowNumber == 36) = decide (UnknownNumber k) := by
    rw [beq_eq_decide, decide_eq_decide]
    refine (rowNumber_eq_36_iff _).trans ?_
    rw [isUnknown_iff, BitVec.toNat_ofNat, Nat.mod_eq_of_lt (List.mem_range.1 mem)]
  unfold Obligations.UnknownWordCount
  rw [List.filter_congr row, length_filter_range, count_unknownNumber]

/-- Settles O7: each word is read by running the decoder. -/
theorem specWordsDecode : Obligations.SpecWordsDecode := by
  unfold Obligations.SpecWordsDecode
  decide

/-- Settles O8: each field is one bit range of the word. -/
theorem decoderExtractsFields : Obligations.DecoderExtractsFields := fun w =>
  ⟨extract_toNat_eq_mask w 8 4, extract_toNat_eq_mask w 4 4, extract_toNat_eq_mask w 0 4, extract_toNat_eq_mask w 0 8,
    extract_toNat_eq_mask w 0 12, rfl⟩

end

section
/-!
SUPPORT. The cycle: a `cpu_step` of a running core is a fetch and an execution on the latched state, whose three
outcomes are said once each; no cycle writes the latches again; and a core in its jump to itself moves nothing
(40_cycle.md R100 to R110).
-/

namespace Sys2Proof.Machine

variable {s : State} {keys : Word} {b : Byte}

/-! ### A running cycle on the latched state -/

theorem step_cpuStep_running (call : s.nextCall = .cpuStep keys b) (running : s.runState = .running) :
    step s = fetchExecute (latchedFor s keys b) := by
  rw [step_eq s call]
  exact cpuStep_running s.tookCall keys b running

/-- From a pc in the fetch window the cycle executes what the two bytes there decode to (40_cycle.md R100, R103). -/
theorem step_cpuStep_window {u : MicroOp} (call : s.nextCall = .cpuStep keys b) (running : s.runState = .running)
    (window : 0x200 ≤ s.pc.toNat ∧ s.pc.toNat ≤ 0xFFE) (op : (decode s.fetchWord).uop = u) :
    step s = execute u (latchedFor s keys b) := by
  rw [step_cpuStep_running call running, ← op]
  exact fetchExecute_of_window _ ((fetchViolation_eq_none s.pc).2 window)

/-- The saturated count fits its 32 bits (40_cycle.md R107). -/
theorem State.countUnknown_toNat (s : State) :
    s.countUnknown.unknownCount.toNat = min (s.unknownCount.toNat + 1) 0xFFFFFFFF := by
  rw [State.countUnknown_unknownCount, BitVec.toNat_ofNat]
  omega

/-- The address a fetch fault records, in the record's 17 bits (40_cycle.md R101, 10_state.md R39). -/
theorem fetchFault_addr (pc : Word) :
    BitVec.ofNat 17 (if pc.toNat = 0xFFF then 0x1000 else pc.toNat) =
      if pc = 0xFFF#16 then 0x1000#17 else pc.setWidth 17 := by
  have last : pc.toNat = 0xFFF ↔ pc = 0xFFF#16 := BitVec.toNat_inj (y := 0xFFF#16)
  simp only [last]
  split
  · rfl
  · exact BitVec.ofNat_toNat 17 pc

/-! ### What no cycle writes -/

/-- The end of the wait writes a register, the pc and `run_state` only (45_timers_keys.md R185). -/
theorem State.waitStep_sameInputs (s : State) (r : Nibble) :
    SameInputs s (s.waitStep r) ∧ (s.waitStep r).timerAcc = s.timerAcc := by
  obtain ⟨-, eq⟩ | ⟨k, -, -, -, eq⟩ := s.waitStep_cases r <;> simp [eq, SameInputs]

theorem execute_sameInputs (u : MicroOp) (s : State) :
    ∃ t, execute u s = .next t ∧ SameInputs s t ∧ t.timerAcc = s.timerAcc := by
  cases u with
  | known i =>
    obtain ⟨t, answers, effect⟩ := exec_effect i s
    exact ⟨t, answers, effect.sameHostElements.1, effect.timerAcc_eq⟩
  | unknown w => exact ⟨_, rfl, by simp [SameInputs], by simp⟩

theorem fetchExecute_sameInputs (s : State) :
    ∃ t, fetchExecute s = .next t ∧ SameInputs s t ∧ t.timerAcc = s.timerAcc := by
  cases fetch : fetchViolation s.pc with
  | some a => exact ⟨_, fetchExecute_of_violation s fetch, by simp [SameInputs], by simp⟩
  | none =>
    rw [fetchExecute_of_window s fetch]
    exact execute_sameInputs _ s

/-- Once the latches are written, a cycle of a core not halted leaves them (40_cycle.md R100, R109). -/
theorem cpuStep_sameInputs (keys : Word) (b : Byte) (live : s.runState ≠ .halted) :
    ∃ t, cpuStep keys b s = .next t ∧ SameInputs (s.latchInputs keys b) t ∧ t.timerAcc = s.timerAcc := by
  cases status : s.runState with
  | halted => exact absurd status live
  | awaitingKey r => exact ⟨_, cpuStep_awaitingKey s keys b status, State.waitStep_sameInputs _ r⟩
  | running =>
    rw [cpuStep_running s keys b status]
    exact fetchExecute_sameInputs _

/-! ### The idle state -/

theorem State.idle_iff : s.idle = true ↔
    s.runState = .running ∧ fetchViolation s.pc = none ∧ s.fetchWord = 0x1000#16 ||| s.pc := by
  simp [State.idle, and_assoc]

/-- In the fetch window the low 12 bits of a pc are all of it. -/
theorem setWidth_setWidth_pc {pc : Word} (le : pc.toNat ≤ 0xFFE) : (pc.setWidth 12).setWidth 16 = pc := by
  bv_omega

/-- In the fetch window `0x1000 | pc` is the word of a jump to pc (40_cycle.md R110). -/
theorem jumpWord_eq_encode {pc : Word} (le : pc.toNat ≤ 0xFFE) :
    0x1000#16 ||| pc = encode (.jp (pc.setWidth 12)) := by
  have low : 0x0#4 ++ pc.setWidth 12 = pc :=
    (BitVec.setWidth_eq_append (show 12 ≤ 16 by decide)).symm.trans (setWidth_setWidth_pc le)
  calc 0x1000#16 ||| pc
    _ = (0x1#4 ++ 0x000#12) ||| (0x0#4 ++ pc.setWidth 12) := congrArg _ low.symm
    _ = 0x1#4 ++ pc.setWidth 12 := by rw [BitVec.or_append, BitVec.or_zero, BitVec.zero_or]

/-- A jump to the pc itself moves nothing (41_control_flow.md R123). -/
theorem exec_jp_self {t : State} (le : t.pc.toNat ≤ 0xFFE) : exec (.jp (t.pc.setWidth 12)) t = .next t := by
  show Host.Outcome.next (t.setPc _) = .next t
  rw [setWidth_setWidth_pc le]
  rfl

end Sys2Proof.Machine

open Sys2Proof Sys2Proof.Machine

/-- Settles O12: the cycle ends at the fetch with the fault raised on the latched state, at the address the window
gives. -/
theorem fetchOutsideWindowHalts : Obligations.FetchOutsideWindowHalts := by
  intro s keys b call running out
  have fetch : fetchViolation (latchedFor s keys b).pc = _ := fetchViolation_eq_some s.pc out
  rw [step_cpuStep_running call running, fetchExecute_of_violation _ fetch, State.raise, fetchFault_addr]
  rfl

/-- Settles O13: the inputs are those of the latched state. -/
theorem cpuStepLatchesKeys : Obligations.CpuStepLatchesKeys := by
  intro s keys b live
  obtain ⟨t, answers, ⟨keyLatch, prevLatch, rnd, pending, hostCalls⟩, timerAcc⟩ := cpuStep_sameInputs keys b live
  exact ⟨t, answers, prevLatch, keyLatch, rnd, timerAcc, pending, hostCalls⟩

/-- Settles O16: the idle word is a jump to the pc it stands at, and no part of idleness reads the latches. -/
theorem idleStaysIdle : Obligations.IdleStaysIdle := by
  intro s keys b idle call
  obtain ⟨running, fetchable, word⟩ := State.idle_iff.1 idle
  have window := (fetchViolation_eq_none s.pc).1 fetchable
  have op : (decode s.fetchWord).uop = .known (.jp (s.pc.setWidth 12)) := by
    rw [word, jumpWord_eq_encode window.2]
    exact decodeOp_encode rfl
  refine ⟨?_, idle⟩
  exact (step_cpuStep_window call running window op).trans (exec_jp_self window.2)

/-- Settles O10: the fetch word is the two bytes, and the decoded instruction is executed. -/
theorem stepRunsDecoded : Obligations.StepRunsDecoded := by
  intro s keys b i call running low high op
  exact step_cpuStep_window call running ⟨low, high⟩ op

/-- Settles O11: UNKNOWN counts and advances the latched state. -/
theorem stepCountsUnknown : Obligations.StepCountsUnknown := by
  intro s keys b w call running low high op
  exact ⟨_, step_cpuStep_window call running ⟨low, high⟩ op, (latchedFor s keys b).countUnknown_toNat, rfl⟩

/-- Settles O14: both transactions test `run_state` first, and both answers read the record. -/
theorem haltedIgnoresCalls : Obligations.HaltedIgnoresCalls := by
  intro s keys b elapsed halted
  exact ⟨cpuStep_halted s keys b halted, s.cpuResult_halted halted,
    congrArg _ (s.timerStep_halted _ elapsed halted), s.timerResult_halted halted⟩
end

section
/-!
SUPPORT. Control flow: what a CALL and a RET answer on each side of their stack check, that the pair of them ends after
the CALL, what a jump and a skip answer, and the words of the skips that ignore their low nibble
(41_control_flow.md R120 to R131).
-/

namespace Sys2Proof

/-! ### The skips of two registers, whatever the low nibble -/

theorem decode_seReg (x y n : Nibble) : (decode (0x5#4 ++ x ++ y ++ n)).uop = .known (.seReg x y) := by
  simp [decode, decodeOp]

theorem decode_sneReg (x y n : Nibble) : (decode (0x9#4 ++ x ++ y ++ n)).uop = .known (.sneReg x y) := by
  simp [decode, decodeOp]

end Sys2Proof

namespace Sys2Proof.Machine

variable {s t u : State} {nnn : Addr}

/-! ### CALL and RET on each side of the stack check -/

theorem exec_call_of_room (room : s.sp.val < 16) :
    exec (.call nnn) s = .next ((s.pushReturn (s.pc + 2)).setPc (nnn.setWidth 16)) :=
  if_neg room.ne

theorem exec_call_of_full (full : s.sp.val = 16) :
    exec (.call nnn) s = .next (s.raise .stackOverflow s.pc.toNat) :=
  if_pos full

theorem exec_ret_of_live (live : 0 < s.sp.val) : exec .ret s = .next (s.setPc s.stackTop).popReturn :=
  if_neg live.ne'

theorem exec_ret_of_empty (empty : s.sp.val = 0) : exec .ret s = .next (s.raise .stackUnderflow s.pc.toNat) :=
  if_pos empty

/-- A stack fault's record holds the pc as its address, in the record's 17 bits (60_exceptions.md R201). -/
theorem State.raise_pc_eq_haltedWith (s : State) (kind : FaultKind) :
    s.raise kind s.pc.toNat = haltedWith s kind (s.pc.setWidth 17) := by
  rw [State.raise, BitVec.ofNat_toNat, haltedWith]

theorem SameStack.stackTop_eq (same : SameStack t u) : u.stackTop = t.stackTop := by
  obtain ⟨sp, stack⟩ := same
  simp only [State.stackTop, sp, stack]

/-! ### Jumps and skips -/

theorem State.setPc_writesPc (s : State) (pc : Word) : WritesPc pc s (s.setPc pc) := by
  simp [WritesPc, SameBeyondPc, SameRegs, SameBeyondRegs, SameDevices, SameStack, SameTimers, SameMemory, SameStatus,
    SameInputs]

/-- The sum of JP V0 fits 16 bits (41_control_flow.md R129). -/
theorem jumpSum_toNat (nnn : Addr) (b : Byte) :
    (nnn.setWidth 16 + b.setWidth 16).toNat = nnn.toNat + b.toNat := by
  bv_omega

/-- A skip writes the pc its condition chooses and nothing else (41_control_flow.md R120). -/
theorem State.skipIf_writesPc (s : State) {cond : Bool} {p : Prop} [Decidable p] (holds : cond = true ↔ p) :
    WritesPc (if p then s.pc + 4 else s.pc + 2) s (s.skipIf cond) := by
  have target : (if p then s.pc + 4 else s.pc + 2) = s.pc + if cond then 4 else 2 := by
    simp only [← holds, apply_ite (s.pc + ·)]
  rw [target]
  exact s.setPc_writesPc _

/-- The key a register names is its value modulo 16 (41_control_flow.md R130). -/
theorem State.keyDown_eq (s : State) (x : Nibble) : s.keyDown x = s.keyLatch.getLsbD ((s.reg x).toNat % 16) := by
  rw [State.keyDown, keyIndex_eq]

end Sys2Proof.Machine

open Sys2Proof Sys2Proof.Machine

/-- Settles O31: with a free entry CALL is the push and the jump. -/
theorem callPushesReturn : Obligations.CallPushesReturn := by
  intro nnn s room
  have entry (k : Nat) (lt : k < 16) := s.pushReturn_stack_get (s.pc + 2) k lt
  refine ⟨_, exec_call_of_room room, ?_, fun k lt ne => ?_, s.pushReturn_sp_val (s.pc + 2) room, ?_, ?_⟩
  · exact (entry s.sp.val room).trans (if_pos rfl)
  · exact (entry k lt).trans (if_neg ne)
  · exact BitVec.toNat_setWidth_of_le (by decide)
  · simp [SameRegs, SameTimers, SameMemory, SameStatus, SameInputs]

/-- Settles O32: with a live entry RET is the jump to the top and the pop. -/
theorem retPopsReturn : Obligations.RetPopsReturn := by
  intro s live
  refine ⟨_, exec_ret_of_live live, rfl, (s.setPc s.stackTop).popReturn_sp_val, rfl, ?_⟩
  simp [SameRegs, SameTimers, SameMemory, SameStatus, SameInputs]

/-- Settles O34: the CALL leaves `pc + 2` on top, and the RET finds the same top and undoes the push of SP. -/
theorem retFollowsCall : Obligations.RetFollowsCall := by
  intro nnn s t u room called same
  obtain rfl := Host.Outcome.next.inj ((exec_call_of_room room).symm.trans called)
  have pushed : u.sp.val = s.sp.val + 1 := (congrArg Fin.val same.1).trans (s.pushReturn_sp_val (s.pc + 2) room)
  refine ⟨_, exec_ret_of_live (by omega), ?_, Fin.ext ?_⟩
  · exact same.stackTop_eq.trans (s.pushReturn_stackTop _ room)
  · exact (u.setPc u.stackTop).popReturn_sp_val.trans (Nat.sub_eq_of_eq_add pushed)

/-- Settles O29: SYS is the generic advance. -/
theorem sysOnlyAdvances : Obligations.SysOnlyAdvances :=
  fun _ s => ⟨_, rfl, s.setPc_writesPc _⟩

/-- Settles O30: both write the pc only, and neither target leaves 16 bits. -/
theorem jumpsSetPc : Obligations.JumpsSetPc := by
  intro nnn s
  constructor
  · exact ⟨_, rfl, BitVec.toNat_setWidth_of_le (by decide), (s.setPc_writesPc _).2⟩
  · exact ⟨_, rfl, jumpSum_toNat nnn _, (s.setPc_writesPc _).2⟩

/-- Settles O33: both take the fault at the pc. -/
theorem stackFaultsHalt : Obligations.StackFaultsHalt := by
  intro nnn s
  constructor
  · intro full
    have halts := s.raise_pc_eq_haltedWith .stackOverflow
    exact ⟨_, exec_call_of_full full, halts, congrArg State.faultPort halts⟩
  · intro empty
    have halts := s.raise_pc_eq_haltedWith .stackUnderflow
    exact ⟨_, exec_ret_of_empty empty, halts, congrArg State.faultPort halts⟩

/-- Settles O35: both words are encodings, and each skip tests its condition. -/
theorem immediateSkips : Obligations.ImmediateSkips := by
  intro x nn s
  constructor
  · exact ⟨decodeOp_encode (i := .seImm x nn) rfl, _, rfl, s.skipIf_writesPc beq_iff_eq⟩
  · exact ⟨decodeOp_encode (i := .sneImm x nn) rfl, _, rfl, s.skipIf_writesPc bne_iff_ne⟩

/-- Settles O36: the decoder drops the low nibble, and each skip tests its condition. -/
theorem registerSkips : Obligations.RegisterSkips := by
  intro x y n s
  constructor
  · exact ⟨decode_seReg x y n, _, rfl, s.skipIf_writesPc beq_iff_eq⟩
  · exact ⟨decode_sneReg x y n, _, rfl, s.skipIf_writesPc bne_iff_ne⟩

/-- Settles O37: both words are encodings, and the condition is the level of the key named modulo 16. -/
theorem keySkips : Obligations.KeySkips := by
  intro x s
  rw [← s.keyDown_eq]
  constructor
  · exact ⟨decodeOp_encode (i := .skp x) rfl, _, rfl, s.skipIf_writesPc Iff.rfl⟩
  · exact ⟨decodeOp_encode (i := .sknp x) rfl, _, rfl, s.skipIf_writesPc (by simp)⟩
end

section
/-!
SUPPORT. The ALU: what writing a register and writing a result with its flag change, and the naturals that the sums,
the differences, the flags and the bits shifted out stand for (42_alu.md R140 to R152).
-/

namespace Sys2Proof.Machine

/-! ### The two shapes of an ALU instruction -/

theorem State.setReg_advance_writes (s : State) (x : Nibble) (b : Byte) :
    WritesReg x b s (s.setReg x b).advance := by
  refine ⟨by simp, fun r ne => by simp [ne], by simp, ?_⟩
  simp [SameBeyondRegs, SameDevices, SameStack, SameTimers, SameMemory, SameStatus, SameInputs]

/-- The flag is written last, so V[x] holds the result only where x is not F (42_alu.md R140, decision D4). -/
theorem State.setResultFlag_advance_writes (s : State) (x : Nibble) {b : Byte} {f : Bool} {result flag : Nat}
    (isResult : b.toNat = result) (isFlag : (flagByte f).toNat = flag) :
    WritesResultFlag x result flag s (s.setResultFlag x b f).advance := by
  subst isResult isFlag
  refine ⟨fun ne => ?_, ?_, fun r neX neF => ?_, by simp, ?_⟩
  · simp [vf, ne]
  · simp [vf]
  · simp [vf, neX, neF]
  · simp [SameBeyondRegs, SameDevices, SameStack, SameTimers, SameMemory, SameStatus, SameInputs]

/-! ### Results and flags as naturals -/

theorem addBytes_toNat (a b : Byte) : (addBytes a b).toNat = (a.toNat + b.toNat) % 256 := BitVec.toNat_ofNat ..

theorem subBytes_toNat (a b : Byte) : (subBytes a b).toNat = (a.toNat + 256 - b.toNat) % 256 := BitVec.toNat_ofNat ..

theorem flagByte_carry_toNat (a b : Byte) :
    (flagByte (carry a b)).toNat = if 255 < a.toNat + b.toNat then 1 else 0 := by
  simp [flagByte_toNat, carry]

theorem flagByte_notBorrow_toNat (a b : Byte) :
    (flagByte (notBorrow a b)).toNat = if a.toNat ≥ b.toNat then 1 else 0 := by
  simp [flagByte_toNat, notBorrow]

theorem shiftRight_one_toNat (a : Byte) : (a >>> 1).toNat = a.toNat / 2 := by
  rw [BitVec.toNat_ushiftRight, Nat.shiftRight_one]

theorem shiftLeft_one_toNat (a : Byte) : (a <<< 1).toNat = a.toNat * 2 % 256 := by
  rw [BitVec.toNat_shiftLeft, Nat.shiftLeft_eq, pow_one]

/-- A flag that is bit `k` of a byte (42_alu.md R149, R151). -/
theorem flagByte_getLsbD_toNat (a : Byte) (k : Nat) : (flagByte (a.getLsbD k)).toNat = a.toNat / 2 ^ k % 2 := by
  rw [flagByte_toNat, BitVec.getLsbD, Nat.testBit_eq_decide_div_mod_eq]
  rcases Nat.mod_two_eq_zero_or_one (a.toNat / 2 ^ k) with bit | bit <;> simp [bit]

theorem flagByte_shiftedOutLow_toNat (a : Byte) : (flagByte (shiftedOutLow a)).toNat = a.toNat % 2 := by
  rw [shiftedOutLow, flagByte_getLsbD_toNat, pow_zero, Nat.div_one]

/-- Bit 7 is the top bit of a byte: nothing stands above it. -/
theorem flagByte_shiftedOutHigh_toNat (a : Byte) : (flagByte (shiftedOutHigh a)).toNat = a.toNat / 128 := by
  have lt : a.toNat / 128 < 2 := by omega
  exact (flagByte_getLsbD_toNat a 7).trans (Nat.mod_eq_of_lt lt)

end Sys2Proof.Machine

open Sys2Proof Sys2Proof.Machine

/-- Settles O40: ADD is the result-and-flag write of the sum and its carry. -/
theorem addSetsCarry : Obligations.AddSetsCarry :=
  fun x _ s => ⟨_, rfl, s.setResultFlag_advance_writes x (addBytes_toNat ..) (flagByte_carry_toNat ..)⟩

/-- Settles O41: both are the result-and-flag write of a difference and its NOT-borrow, SUBN with the operands
exchanged. -/
theorem subtractionsSetNotBorrow : Obligations.SubtractionsSetNotBorrow := by
  intro x y s
  have writes (a b : Byte) := s.setResultFlag_advance_writes x (subBytes_toNat a b) (flagByte_notBorrow_toNat a b)
  constructor
  · exact ⟨_, rfl, writes (s.reg x) (s.reg y)⟩
  · exact ⟨_, rfl, writes (s.reg y) (s.reg x)⟩

/-- Settles O42: each is the result-and-flag write of the shifted V[x] and the bit it loses. -/
theorem shiftsSetShiftedOut : Obligations.ShiftsSetShiftedOut := by
  intro x s
  constructor
  · exact ⟨_, rfl, s.setResultFlag_advance_writes x (shiftRight_one_toNat _) (flagByte_shiftedOutLow_toNat _)⟩
  · exact ⟨_, rfl, s.setResultFlag_advance_writes x (shiftLeft_one_toNat _) (flagByte_shiftedOutHigh_toNat _)⟩

/-- Settles O38: all five words are encodings, and each instruction is one register write. -/
theorem loadsAndLogicWriteVx : Obligations.LoadsAndLogicWriteVx := by
  intro x y nn s
  have writes := s.setReg_advance_writes x
  refine ⟨?_, ?_, ?_, ?_, ?_⟩
  · exact ⟨decodeOp_encode (i := .ldImm x nn) rfl, _, rfl, writes _⟩
  · exact ⟨decodeOp_encode (i := .ldReg x y) rfl, _, rfl, writes _⟩
  · exact ⟨decodeOp_encode (i := .orReg x y) rfl, _, rfl, writes _⟩
  · exact ⟨decodeOp_encode (i := .andReg x y) rfl, _, rfl, writes _⟩
  · exact ⟨decodeOp_encode (i := .xorReg x y) rfl, _, rfl, writes _⟩

/-- Settles O39: the word is an encoding, and the one register write is of the sum modulo 256. -/
theorem addImmediateWraps : Obligations.AddImmediateWraps := by
  intro x nn s
  have writes := s.setReg_advance_writes x (addBytes (s.reg x) nn)
  have ⟨sum, _⟩ := writes
  refine ⟨decodeOp_encode (i := .addImm x nn) rfl, _, rfl, ?_, ?_⟩
  · rw [sum, addBytes_toNat]
  · rwa [sum]

/-- Settles O43: RND is one register write of the masked operand. -/
theorem rndMasksEntropy : Obligations.RndMasksEntropy :=
  fun x nn s => ⟨_, rfl, s.setReg_advance_writes x (s.rnd &&& nn)⟩
end

section
/-!
SUPPORT. The index register and the memory transfers: what writing I, storing a run of bytes at I and loading the
register block from I change, and the live side of each address check (43_index_memory.md R160 to R165).
-/

namespace Sys2Proof.Machine

variable {s : State} {x : Nibble}

/-! ### The three shapes of an index or memory instruction -/

theorem State.setIndex_advance_writes (s : State) {a : Word} {value : Nat} (isValue : a.toNat = value) :
    WritesIndex value s (s.setIndex a).advance := by
  subst isValue
  refine ⟨by simp, fun r => by simp, by simp, by simp, ?_⟩
  simp [SameDevices, SameStack, SameTimers, SameMemory, SameStatus, SameInputs]

/-- Canonical memory reads a stored byte back inside the run and is untouched outside it (20_memory.md R53). -/
theorem State.setMem_advance_storesAtIndex (wf : s.mem.wf = true) (bytes : List Byte) :
    StoresAtIndex bytes s (s.setMem (s.mem.writeBytes (s.ea 0) bytes)).advance := by
  have rises := ((Memory.wf_iff s.mem).1 wf).1
  refine ⟨fun k lt => ?_, fun a out => ?_, by simp, ?_⟩
  · simpa using Memory.read_writeBytes_inside rises (s.ea 0) bytes lt
  · simpa using Memory.read_writeBytes_outside s.mem (s.ea 0) bytes out
  · simp [SameRegs, SameStack, SameTimers, SameStatus, SameInputs]

/-- The block load reaches the registers up to `x` and no other (43_index_memory.md R165). -/
theorem State.loadBlock_reg (s : State) (x r : Nibble) :
    (s.loadRegs 0 (s.bytesAtIndex (x.toNat + 1))).reg r =
      if r.toNat ≤ x.toNat then s.mem.read (s.ea r.toNat) else s.reg r := by
  have fits : x.toNat + 1 ≤ 16 := x.isLt
  rw [State.loadRegs_reg _ _ _ (by simpa using fits)]
  simp

theorem State.loadRegs_advance_sameBeyondRegs (s : State) (k : Nat) (bytes : List Byte) :
    SameBeyondRegs s (s.loadRegs k bytes).advance := by
  simp [SameBeyondRegs, SameDevices, SameStack, SameTimers, SameMemory, SameStatus, SameInputs]

/-! ### The address check where every byte exists (20_memory.md R56) -/

theorem State.guardAddresses_of_last_fits {last : Nat} (fits : s.ea last ≤ 0xFFF) (effect : State) :
    s.guardAddresses (last + 1) effect = effect := by
  rw [s.ea_eq] at fits
  exact s.guardAddresses_of_fits (by omega) effect

theorem exec_ldB_of_fits (fits : s.ea 2 ≤ 0xFFF) :
    exec (.ldB x) s = .next (s.setMem (s.mem.writeBytes (s.ea 0) (bcdDigits (s.reg x)))).advance :=
  congrArg _ (State.guardAddresses_of_last_fits fits _)

theorem exec_ldVxMem_of_fits (fits : s.ea x.toNat ≤ 0xFFF) :
    exec (.ldVxMem x) s = .next (s.loadRegs 0 (s.bytesAtIndex (x.toNat + 1))).advance :=
  congrArg _ (State.guardAddresses_of_last_fits fits _)

end Sys2Proof.Machine

open Sys2Proof Sys2Proof.Machine

/-- Settles O45: the word is an encoding; with all three addresses in memory LD B is the store of the digits, and
otherwise its address check answers the fault. -/
theorem ldBStoresDigits : Obligations.LdBStoresDigits := by
  intro x s
  refine ⟨decodeOp_encode (i := .ldB x) rfl, fun wf fits => ?_, fun past => ?_⟩
  · exact ⟨_, exec_ldB_of_fits fits, State.setMem_advance_storesAtIndex wf (bcdDigits (s.reg x))⟩
  · exact congrArg _ (guardAddresses_eq_haltedWith (count := 3) (by decide) past _)

/-- Settles O46: LD [I],Vx is the store of the register block. -/
theorem ldMemVxStoresBlock : Obligations.LdMemVxStoresBlock := by
  intro x s wf fits
  exact ⟨_, s.regBlock x, exec_ldMemVx_of_fits fits, s.regBlock_length x, s.regBlock_get x,
    State.setMem_advance_storesAtIndex wf _⟩

/-- Settles O47: LD Vx,[I] is the block load, which writes registers only. -/
theorem ldVxMemLoadsBlock : Obligations.LdVxMemLoadsBlock := by
  intro x s fits
  exact ⟨_, exec_ldVxMem_of_fits fits, s.loadBlock_reg x, by simp, s.loadRegs_advance_sameBeyondRegs 0 _⟩

/-- Settles O44: all three words are encodings, and each instruction is one write of I, whose value fits 16 bits. -/
theorem indexInstructionsWriteIndex : Obligations.IndexInstructionsWriteIndex := by
  intro nnn x s
  have sumFits : (s.i.toNat + (s.reg x).toNat) % 0x1000 < 2 ^ 16 := by omega
  have sum := (BitVec.toNat_ofNat _ 16).trans (Nat.mod_eq_of_lt sumFits)
  refine ⟨?_, ?_, ?_⟩
  · exact ⟨decodeOp_encode (i := .ldI nnn) rfl, _, rfl,
      s.setIndex_advance_writes (BitVec.toNat_setWidth_of_le (by decide))⟩
  · exact ⟨decodeOp_encode (i := .addI x) rfl, _, rfl, s.setIndex_advance_writes sum⟩
  · exact ⟨decodeOp_encode (i := .ldF x) rfl, _, rfl, s.setIndex_advance_writes (glyphAddress_toNat _)⟩
end

section
/-!
SUPPORT. The display: what a draw that fits in memory answers, which cells it plots, and what it leaves on the display
and in VF (44_display.md R170 to R173).
-/

namespace Sys2Proof.Machine

variable {s : State} {x y n : Nibble}

/-- The cells a DRW plots, from the sprite at I and the two coordinate registers (44_display.md R170, R172). -/
def State.plottedCells (s : State) (x y n : Nibble) : List Nat :=
  spriteCells .wrap (s.reg x).toNat (s.reg y).toNat 0 (s.bytesAtIndex n.toNat)

/-- The state a DRW whose sprite lies inside memory answers (44_display.md R172). -/
def State.drawn (s : State) (x y n : Nibble) : State :=
  let canvas := drawCells s.display (s.plottedCells x y n)
  ((s.setDisplay canvas.display).setReg vf (flagByte canvas.hit)).advance

theorem exec_drw_of_fits (fits : n = 0 ∨ s.ea (n.toNat - 1) ≤ 0xFFF) :
    exec (.drw x y n) s = .next (s.drawn x y n) := by
  have rowsFit : s.ea 0 + n.toNat ≤ 0x1000 := by
    have base := s.ea_zero_le
    obtain rfl | last := fits
    · simpa using Nat.le_succ_of_le base
    · rw [s.ea_eq] at last
      omega
  exact congrArg _ (s.guardAddresses_of_fits rowsFit _)

/-- A draw shows in the display, VF and the pc only (44_display.md R172). -/
theorem State.drawn_frame (s : State) (x y n : Nibble) :
    SameRegsBut 0xF#4 s (s.drawn x y n) ∧ (s.drawn x y n).i = s.i ∧ (s.drawn x y n).pc = s.pc + 2 ∧
      SameDevices s (s.drawn x y n) := by
  refine ⟨fun r ne => ?_, rfl, rfl, ?_⟩
  · simp [State.drawn, vf, ne]
  · simp [State.drawn, SameDevices, SameStack, SameTimers, SameMemory, SameStatus, SameInputs]

/-! ### The cells plotted -/

theorem State.plottedCells_lt {j : Nat} (plotted : j ∈ s.plottedCells x y n) : j < 2048 :=
  spriteCells_inside _ _ _ _ j plotted

theorem State.plottedCells_nodup (s : State) (x y n : Nibble) : (s.plottedCells x y n).Nodup := by
  have rows : n.toNat ≤ 32 := by omega
  exact spriteCells_nodup _ _ _ _ (by simpa using rows)

theorem spriteBit_eq_true_iff (row : Byte) (c : Nat) : spriteBit row c = true ↔ row.toNat / 2 ^ (7 - c) % 2 = 1 := by
  rw [spriteBit, BitVec.getLsbD, Nat.testBit_eq_decide_div_mod_eq, decide_eq_true_iff]

/-- A cell is plotted exactly if it is the index of a pixel the sprite covers (44_display.md R170). -/
theorem State.mem_plottedCells {j : Nat} :
    j ∈ s.plottedCells x y n ↔ ∃ cx cy, spriteCovers s x y n cx cy ∧ j = cellIndex cx cy := by
  rw [State.plottedCells, mem_spriteCells]
  simp only [spriteBit_eq_true_iff, State.bytesAtIndex_get, State.bytesAtIndex_length, Nat.zero_add]
  constructor
  · rintro ⟨r, hr, c, hc, bit, rfl⟩
    exact ⟨_, _, ⟨r, c, hr, hc, bit, rfl, rfl⟩, rfl⟩
  · rintro ⟨_, _, ⟨r, c, hr, hc, bit, rfl, rfl⟩, rfl⟩
    exact ⟨r, hr, c, hc, bit, rfl⟩

theorem spriteCovers.inside {cx cy : Nat} (covers : spriteCovers s x y n cx cy) : cx < 64 ∧ cy < 32 := by
  obtain ⟨r, c, -, -, -, rfl, rfl⟩ := covers
  omega

theorem State.cellIndex_mem_plottedCells {cx cy : Nat} (hx : cx < 64) :
    cellIndex cx cy ∈ s.plottedCells x y n ↔ spriteCovers s x y n cx cy := by
  refine State.mem_plottedCells.trans ⟨?_, fun covers => ⟨cx, cy, covers, rfl⟩⟩
  rintro ⟨cx', cy', covers, same⟩
  obtain ⟨rfl, rfl⟩ := cellIndex_inj hx covers.inside.1 same
  exact covers

/-! ### What the draw leaves on the display and in VF -/

theorem State.drawn_cell {j : Nat} (lt : j < 2048) :
    (s.drawn x y n).display.cell j = (s.display.cell j ^^ decide (j ∈ s.plottedCells x y n)) :=
  drawCells_display _ _ (s.plottedCells_nodup x y n) (fun _ => State.plottedCells_lt) lt

theorem State.drawn_pixel {cx cy : Nat} (hx : cx < 64) (hy : cy < 32) :
    (s.drawn x y n).pixel cx cy = (s.pixel cx cy ^^ decide (cellIndex cx cy ∈ s.plottedCells x y n)) :=
  State.drawn_cell (cellIndex_lt hx hy)

theorem flagByte_eq_one_iff (flag : Bool) : flagByte flag = 1 ↔ flag = true := by cases flag <;> decide

theorem flagByte_eq_one_or_zero (flag : Bool) : flagByte flag = 1 ∨ flagByte flag = 0 := by cases flag <;> decide

theorem State.drawn_vf (s : State) (x y n : Nibble) :
    (s.drawn x y n).reg 0xF#4 = flagByte (drawCells s.display (s.plottedCells x y n)).hit := by
  simp [State.drawn, vf]

/-- VF notes whether a plotted cell was on before the draw (44_display.md R172). -/
theorem State.drawn_vf_eq_one_iff :
    (s.drawn x y n).reg 0xF#4 = 1 ↔ ∃ j ∈ s.plottedCells x y n, s.display.cell j = true := by
  rw [State.drawn_vf, flagByte_eq_one_iff]
  exact drawCells_hit _ _ (s.plottedCells_nodup x y n) fun _ => State.plottedCells_lt

/-! ### A second draw at the same position -/

/-- The draw writes neither memory nor I, so the coordinates alone could move the sprite (44_display.md R173). -/
theorem State.drawn_plottedCells (sameX : (s.drawn x y n).reg x = s.reg x) (sameY : (s.drawn x y n).reg y = s.reg y) :
    (s.drawn x y n).plottedCells x y n = s.plottedCells x y n := by
  rw [State.plottedCells, sameX, sameY]
  rfl

/-- Every cell on the screen is a pixel (10_state.md R34). -/
theorem exists_cellIndex {j : Nat} (lt : j < 2048) : ∃ cx cy, cx < 64 ∧ cy < 32 ∧ cellIndex cx cy = j :=
  ⟨j % 64, j / 64, by omega, by omega, Nat.div_add_mod' j 64⟩

/-- A plotted cell is on after the draw exactly if the draw lit it: it was off before (44_display.md R173). -/
theorem State.exists_plotted_on_iff_exists_lit :
    (∃ j ∈ s.plottedCells x y n, (s.drawn x y n).display.cell j = true) ↔
      ∃ cx cy, cx < 64 ∧ cy < 32 ∧ s.pixel cx cy = false ∧ (s.drawn x y n).pixel cx cy = true := by
  constructor
  · rintro ⟨j, plotted, on⟩
    obtain ⟨cx, cy, hx, hy, rfl⟩ := exists_cellIndex (State.plottedCells_lt plotted)
    have lit : (s.drawn x y n).pixel cx cy = true := on
    have off : s.pixel cx cy = false := by simpa [State.drawn_pixel hx hy, plotted] using lit
    exact ⟨cx, cy, hx, hy, off, lit⟩
  · rintro ⟨cx, cy, hx, hy, off, lit⟩
    have plotted : cellIndex cx cy ∈ s.plottedCells x y n := by simpa [State.drawn_pixel hx hy, off] using lit
    exact ⟨cellIndex cx cy, plotted, lit⟩

end Sys2Proof.Machine

open Sys2Proof Sys2Proof.Machine

/-- Settles O51: the cells plotted are those the sprite covers, and each flips once. -/
theorem drwFlipsCoveredCells : Obligations.DrwFlipsCoveredCells := by
  intro x y n s fits
  refine ⟨s.drawn x y n, exec_drw_of_fits fits, fun cx cy hx hy => ?_, ?_, ?_, s.drawn_frame x y n⟩
  · rw [← State.cellIndex_mem_plottedCells hx, State.drawn_pixel hx hy]
    exact ⟨fun covered => by simp [covered], fun kept => by simp [kept]⟩
  · rw [State.drawn_vf]
    exact flagByte_eq_one_or_zero _
  · rw [State.drawn_vf_eq_one_iff]
    constructor
    · rintro ⟨_, plotted, on⟩
      obtain ⟨cx, cy, covers, rfl⟩ := State.mem_plottedCells.1 plotted
      exact ⟨cx, cy, covers, on⟩
    · rintro ⟨cx, cy, covers, on⟩
      exact ⟨_, State.mem_plottedCells.2 ⟨cx, cy, covers, rfl⟩, on⟩

/-- Settles O52: the second draw plots the cells of the first, so each flips back, and it hits exactly those that the
first lit. -/
theorem drwTwiceRestores : Obligations.DrwTwiceRestores := by
  intro x y n s t fits first sameX sameY
  obtain rfl : s.drawn x y n = t := Host.Outcome.next.inj ((exec_drw_of_fits fits).symm.trans first)
  have sameCells := State.drawn_plottedCells sameX sameY
  refine ⟨(s.drawn x y n).drawn x y n, exec_drw_of_fits fits, Screen.ext_cell fun j lt => ?_, ?_⟩
  · rw [State.drawn_cell lt, sameCells, State.drawn_cell lt, Bool.xor_assoc, Bool.xor_self, Bool.xor_false]
  · rw [State.drawn_vf_eq_one_iff, sameCells, State.exists_plotted_on_iff_exists_lit]

/-- Settles O50: the word is an encoding, and the clear display, whose cells are all off, is the one write beside the
pc. -/
theorem clsClearsDisplay : Obligations.ClsClearsDisplay := by
  intro s
  refine ⟨decodeOp_encode (i := .cls) rfl, _, rfl, ?_, fun r => by simp, rfl, rfl, ?_⟩
  · exact fun cx cy _ _ => Screen.clear_cell _
  · simp [SameDevices, SameStack, SameTimers, SameMemory, SameStatus, SameInputs]
end

section
/-!
SUPPORT. The timers and the key wait: which effects write a timer, what writing one changes, and the edges a waiting
cycle tests (45_timers_keys.md R180 to R186).
-/

namespace Sys2Proof.Machine

variable {s t : State} {i : Instr} {keys : Word} {b : Byte} {r : Nibble}

/-! ### The timers -/

/-- Only LD DT,Vx writes the delay timer (45_timers_keys.md R183). -/
theorem InstrEffect.dt_eq (h : InstrEffect s i t) : t.dt = s.dt ∨ ∃ x, i = .ldDtVx x := by
  cases h
  case delay => exact .inr ⟨_, rfl⟩
  all_goals exact .inl (by simp)

/-- Only LD ST,Vx writes the sound timer (45_timers_keys.md R183). -/
theorem InstrEffect.st_eq (h : InstrEffect s i t) : t.st = s.st ∨ ∃ x, i = .ldStVx x := by
  cases h
  case sound => exact .inr ⟨_, rfl⟩
  all_goals exact .inl (by simp)

/-- The sound output is on while the sound timer runs (60_exceptions.md R213). -/
theorem State.soundActive_iff : s.soundActive = true ↔ s.st ≠ 0 := bne_iff_ne

/-! ### The key wait -/

/-- A key goes down in a cycle when it is down now and was up in the latch before (45_timers_keys.md R185). -/
theorem State.latchInputs_keyEdges_getLsbD {k : Nat} (lt : k < 16) :
    (s.latchInputs keys b).keyEdges.getLsbD k = (keys.getLsbD k && !s.keyLatch.getLsbD k) := by
  simp [State.keyEdges, lt]

theorem State.latchInputs_keyEdges_getLsbD_eq_false {k : Nat} (lt : k < 16) :
    (s.latchInputs keys b).keyEdges.getLsbD k = false ↔ (keys.getLsbD k = true → s.keyLatch.getLsbD k = true) := by
  rw [State.latchInputs_keyEdges_getLsbD lt]
  simp

/-- With no key going down, the wait goes on from the latched state (45_timers_keys.md R186). -/
theorem cpuStep_of_no_edge (waiting : s.runState = .awaitingKey r)
    (held : ∀ k, k < 16 → keys.getLsbD k = true → s.keyLatch.getLsbD k = true) :
    cpuStep keys b s = .next (s.latchInputs keys b) := by
  have noEdge : (s.latchInputs keys b).keyEdges = 0 := BitVec.eq_of_getLsbD_eq fun k lt => by
    simpa using (State.latchInputs_keyEdges_getLsbD_eq_false lt).2 (held k lt)
  rw [cpuStep_awaitingKey s keys b waiting, State.waitStep_of_no_edge _ ((lowestBit_eq_none _).2 noEdge)]

/-- The lowest key going down ends the wait (45_timers_keys.md R185, decision D11). -/
theorem cpuStep_of_lowest_edge {k : Nat} (waiting : s.runState = .awaitingKey r) (lt : k < 16)
    (down : keys.getLsbD k = true) (up : s.keyLatch.getLsbD k = false)
    (lower : ∀ j, j < k → keys.getLsbD j = true → s.keyLatch.getLsbD j = true) :
    cpuStep keys b s =
      .next (((s.latchInputs keys b).setReg r (BitVec.ofNat 8 k)).advance.setRunState .running) := by
  have edge : (s.latchInputs keys b).keyEdges.getLsbD k = true := by
    rw [State.latchInputs_keyEdges_getLsbD lt, down, up]
    rfl
  have lowest : lowestBit (s.latchInputs keys b).keyEdges = some k := (lowestBit_eq_some _ _).2
    ⟨lt, edge, fun j below => (State.latchInputs_keyEdges_getLsbD_eq_false (by omega)).2 (lower j below)⟩
  rw [cpuStep_awaitingKey s keys b waiting, State.waitStep_of_edge _ lowest]

end Sys2Proof.Machine

open Sys2Proof Sys2Proof.Machine

/-- Settles O24: of the effects, one writes each timer and none the accumulator. -/
theorem timerWritersAreThese : Obligations.TimerWritersAreThese := by
  intro i s t h
  have effect := InstrEffect.of_exec h
  exact ⟨effect.dt_eq.resolve_left, effect.st_eq.resolve_left, effect.timerAcc_eq⟩

/-- Settles O56: the lowest key going down is written to V[r], and a key index fits a byte. -/
theorem waitEndsOnLowestEdge : Obligations.WaitEndsOnLowestEdge := by
  intro s r keys b k waiting lt down up lower
  have fits : k % 256 = k := Nat.mod_eq_of_lt (by omega)
  refine ⟨_, cpuStep_of_lowest_edge waiting lt down up lower, by simpa using fits, fun q ne => by simp [ne], ?_⟩
  simp [SameStack, SameTimers, SameMemory]

/-- Settles O53: all three words are encodings; the read is one register write, and each write of a timer leaves the
rest. -/
theorem timerInstructionsMove : Obligations.TimerInstructionsMove := by
  intro x s
  refine ⟨?_, ?_, ?_⟩
  · exact ⟨decodeOp_encode (i := .ldVxDt x) rfl, _, rfl, s.setReg_advance_writes x s.dt⟩
  · refine ⟨decodeOp_encode (i := .ldDtVx x) rfl, _, rfl, ?_⟩
    simp [SameRegs, SameStack, SameMemory, SameStatus, SameInputs]
  · refine ⟨decodeOp_encode (i := .ldStVx x) rfl, _, rfl, rfl, State.soundActive_iff, ?_⟩
    simp [SameRegs, SameStack, SameMemory, SameStatus, SameInputs]

/-- Settles O54: the word is an encoding, and the one write is of `run_state`. -/
theorem ldVxKEntersWait : Obligations.LdVxKEntersWait := by
  intro x s
  refine ⟨decodeOp_encode (i := .ldVxK x) rfl, _, rfl, ?_⟩
  simp [SameRegs, SameStack, SameTimers, SameMemory, SameInputs]

/-- Settles O55: with no key going down, the latched state is the answer. -/
theorem waitHoldsWithoutEdge : Obligations.WaitHoldsWithoutEdge :=
  fun _ _ _ _ waiting held => cpuStep_of_no_edge waiting held
end

section
/-!
SUPPORT. The exceptions and the host's transactions: which effects halt the core and for which cause, that no
transaction but an oversized `construct` is refused, and that elapsed time adds up (60_exceptions.md R200 to R214).
-/

namespace Sys2Proof

/-- The instructions whose addresses are checked, with the bytes each touches (20_memory.md R55). -/
theorem Instr.eq_of_accessCount {i : Instr} {count : Nat} (h : i.accessCount = some count) :
    (∃ x y n, i = .drw x y n ∧ count = n.toNat) ∨ (∃ x, i = .ldB x ∧ count = 3) ∨
      ∃ x, (i = .ldMemVx x ∨ i = .ldVxMem x) ∧ count = x.toNat + 1 := by
  cases i <;> simp_all [Instr.accessCount]

end Sys2Proof

namespace Sys2Proof.Machine

variable {s t : State} {i : Instr}

/-! ### Which effects halt the core -/

/-- Of the effects, the two stack faults and the overrun halt a core not halted yet (60_exceptions.md R201). -/
theorem InstrEffect.halt_cases (h : InstrEffect s i t) (live : s.runState ≠ .halted) (halted : t.runState = .halted) :
    (i = .ret ∧ s.sp.val = 0 ∧ t = haltedWith s .stackUnderflow (s.pc.setWidth 17)) ∨
      ((∃ nnn, i = .call nnn) ∧ s.sp.val = 16 ∧ t = haltedWith s .stackOverflow (s.pc.setWidth 17)) ∨
      ∃ count, i.accessCount = some count ∧ 0x1000 < s.ea 0 + count ∧ t = haltedWith s .outOfBounds 0x1000#17 := by
  cases h
  case underflow empty => exact .inl ⟨rfl, empty, s.raise_pc_eq_haltedWith _⟩
  case overflow full => exact .inr (.inl ⟨⟨_, rfl⟩, full, s.raise_pc_eq_haltedWith _⟩)
  case overrun count past touches => exact .inr (.inr ⟨count, touches, past, rfl⟩)
  case wait => exact absurd halted (by simp)
  all_goals exact absurd (by simpa using halted) live

/-- An overrun is a memory instruction whose last address exceeds 0xFFF; a DRW of no rows is none, since `EA(0)` itself
exists (20_memory.md R55, R56). -/
theorem overrun_cases {count : Nat} (touches : i.accessCount = some count) (past : 0x1000 < s.ea 0 + count) :
    (∃ x y n : Nibble, i = .drw x y n ∧ 0xFFF < s.ea 0 + n.toNat - 1 ∧ n ≠ 0) ∨
      (∃ x : Nibble, i = .ldB x ∧ 0xFFF < s.ea 2) ∨
      ∃ x : Nibble, (i = .ldMemVx x ∨ i = .ldVxMem x) ∧ 0xFFF < s.ea x.toNat := by
  obtain ⟨x, y, n, rfl, rfl⟩ | ⟨x, rfl, rfl⟩ | ⟨x, block, rfl⟩ := Instr.eq_of_accessCount touches
  · have base := s.ea_zero_le
    have rows : n.toNat ≠ 0 := by omega
    exact .inl ⟨x, y, n, rfl, by omega, fun zero => rows (congrArg BitVec.toNat zero)⟩
  · exact .inr (.inl ⟨x, rfl, by rw [s.ea_eq]; omega⟩)
  · exact .inr (.inr ⟨x, block, by rw [s.ea_eq]; omega⟩)

/-! ### Every transaction answers -/

theorem cpuStep_next (keys : Word) (b : Byte) (s : State) : ∃ t, cpuStep keys b s = .next t := by
  by_cases halted : s.runState = .halted
  · exact ⟨s, cpuStep_halted s keys b halted⟩
  · obtain ⟨t, answers, -⟩ := cpuStep_sameInputs keys b halted
    exact ⟨t, answers⟩

/-- Of the host's transactions, only a `construct` can be refused (60_exceptions.md R209). -/
theorem hostStep_next {c : HostCall} (fits : ∀ rom, c = .construct rom → rom.length ≤ 3584) (s : State) :
    ∃ t, hostStep c s = .next t := by
  cases c with
  | construct rom => exact ⟨_, construct_of_fits s rom (fits rom rfl)⟩
  | cpuStep keys b => exact cpuStep_next keys b s
  | timerStep elapsed => exact ⟨_, rfl⟩

/-! ### Elapsed time adds up -/

/-- Ticks clamped at 0 add up (60_exceptions.md R211). -/
theorem tickDown_tickDown (timer : Byte) (j k : Nat) : tickDown (tickDown timer j) k = tickDown timer (j + k) := by
  apply BitVec.eq_of_toNat_eq
  simp only [tickDown_toNat, Nat.sub_sub]

/-- Whole ticks of a first time and then of its remainder with a second are those of the sum (60_exceptions.md R211). -/
theorem div_add_mod_add_div {units : Nat} (pos : 0 < units) (a b : Nat) :
    a / units + (a % units + b) / units = (a + b) / units := by
  rw [← Nat.mul_add_div pos, ← Nat.add_assoc, Nat.div_add_mod]

theorem State.setTimers_setTimers (s : State) (acc acc' : Nat) (dt dt' st st' : Byte) :
    (s.setTimers acc dt st).setTimers acc' dt' st' = s.setTimers acc' dt' st' := rfl

theorem State.timerStep_timerStep {units : Nat} (pos : 0 < units) (e₁ e₂ : Nat) (s : State) :
    (s.timerStep units e₁).timerStep units e₂ = s.timerStep units (e₁ + e₂) := by
  by_cases halted : s.runState = .halted
  · rw [s.timerStep_halted _ e₁ halted, s.timerStep_halted _ e₂ halted, s.timerStep_halted _ _ halted]
  · have live (acc : Nat) (dt st : Byte) : (s.setTimers acc dt st).runState ≠ .halted := halted
    have total : s.timerAcc + 60 * (e₁ + e₂) = s.timerAcc + 60 * e₁ + 60 * e₂ := by omega
    rw [s.timerStep_live _ e₁ halted, State.timerStep_live _ _ e₂ (live _ _ _), s.timerStep_live _ _ halted, total]
    simp only [State.setTimers_timerAcc, State.setTimers_dt, State.setTimers_st, State.setTimers_setTimers,
      tickDown_tickDown, div_add_mod_add_div pos, Nat.mod_add_mod]

end Sys2Proof.Machine

open Sys2Proof Sys2Proof.Machine

/-- Settles O15: whatever call the step takes off the host's list, its transaction answers a next state. -/
theorem stepAlwaysAnswers : Obligations.StepAlwaysAnswers := by
  intro s fits
  exact hostStep_next fits s.tookCall

/-- Settles O21: every instruction answers one of its effects, and the ones that halt raise a fault. -/
theorem faultsArePrecise : Obligations.FaultsArePrecise := by
  intro i s live
  obtain ⟨t, answers, effect⟩ := exec_effect i s
  refine ⟨t, answers, fun halted => ?_⟩
  obtain ⟨-, -, eq⟩ | ⟨-, -, eq⟩ | ⟨_, -, -, eq⟩ := effect.halt_cases live halted <;> exact ⟨_, _, eq⟩

/-- Settles O22: the halting effects are the two stack faults and the overrun, which only a checked access has. -/
theorem faultCausesAreThese : Obligations.FaultCausesAreThese := by
  intro i s t live h halted
  obtain underflow | overflow | ⟨count, touches, past, eq⟩ := (InstrEffect.of_exec h).halt_cases live halted
  · exact .inl underflow
  · exact .inr (.inl overflow)
  · exact .inr (.inr ⟨overrun_cases touches past, eq⟩)

/-- Settles O57: a core not halted takes the quotient off both timers and keeps the remainder. -/
theorem timerStepCountsTicks : Obligations.TimerStepCountsTicks := by
  intro s units elapsed _ live
  exact ⟨_, s.timerStep_live units elapsed live, rfl, tickDown_toNat .., tickDown_toNat .., rfl⟩

/-- Settles O58: the remainder carries over, and the ticks of the two calls add up. -/
theorem timerStepsAdd : Obligations.TimerStepsAdd :=
  fun s _ e₁ e₂ pos => s.timerStep_timerStep pos e₁ e₂

/-- Settles O59: the step is the transaction of the call it takes off the list. -/
theorem stepServesTimerAndConstruct : Obligations.StepServesTimerAndConstruct :=
  fun s _ _ => ⟨step_eq s, step_eq s⟩
end

section
/-!
SUPPORT. Reset and the load of a ROM: the contents of memory and of the registers after reset, and `construct` on either
side of the longest ROM (70_reset_and_hazards.md R230 to R233, 60_exceptions.md R209).
-/

namespace Sys2Proof.Machine

/-! ### The contents of memory without a program -/

/-- With `FONT_BASE` at 0x000 no address lies below the font (70_reset_and_hazards.md R232). -/
theorem Memory.unlisted_eq (a : Nat) : Memory.unlisted a = font.getD a 0 :=
  if_neg (Nat.not_lt_zero a)

/-- Byte `a` of the font is byte `a % 5` of glyph `a / 5` (70_reset_and_hazards.md R233). -/
theorem font_getD_eq_glyphByte : ∀ a, a < 80 → font.getD a 0 = (fontRows.getD (a / 5) []).getD (a % 5) 0 := by
  decide

/-- The font ends at 0x04F (70_reset_and_hazards.md R232). -/
theorem Memory.unlisted_above_font {a : Nat} (above : 80 ≤ a) : Memory.unlisted a = 0 := by
  rw [Memory.unlisted_eq]
  exact List.getD_eq_default font 0 above

/-! ### The registers, stack and display after reset -/

@[simp] theorem State.reset_reg (r : Nibble) : State.reset.reg r = 0 := Vector.getElem_replicate ..

@[simp] theorem State.reset_stack_get (k : Nat) (h : k < 16) : State.reset.stack[k] = 0 := Vector.getElem_replicate ..

@[simp] theorem State.reset_pixel (cx cy : Nat) : State.reset.pixel cx cy = false := Screen.clear_cell _

/-! ### A loaded ROM -/

theorem Memory.read_image_inside (a : Nat) {bytes : List Byte} {k : Nat} (lt : k < bytes.length) :
    Memory.read (Memory.image a bytes) (a + k) = bytes[k] := by
  rw [Memory.read_image, dif_pos (by omega)]
  simp only [Nat.add_sub_cancel_left]

theorem Memory.read_image_outside {a b : Nat} {bytes : List Byte} (out : b < a ∨ a + bytes.length ≤ b) :
    Memory.read (Memory.image a bytes) b = Memory.unlisted b := by
  rw [Memory.read_image, dif_neg (by omega)]

/-- A ROM longer than the program area leaves no core (60_exceptions.md R209). -/
theorem construct_of_too_long {rom : List Byte} (long : 3584 < rom.length) (s : State) :
    construct rom s = .refused (.capacityExceeded rom.length) :=
  if_pos long

end Sys2Proof.Machine

open Sys2Proof Sys2Proof.Machine

/-- Settles O20: a ROM that fits is the image listed over the reset state, and a longer one is refused. -/
theorem constructLoadsRom : Obligations.ConstructLoadsRom := by
  intro rom s
  constructor
  · intro fits
    refine ⟨_, construct_of_fits s rom fits, ?_, ?_, rfl⟩
    · exact fun k lt => Memory.read_image_inside 0x200 lt
    · exact fun a out => Memory.read_image_outside out
  · exact fun long => construct_of_too_long long s

/-- Settles O18: the clauses of the invariant at reset, which a freshly constructed core also rests on. -/
theorem resetMeetsInv : Obligations.ResetMeetsInv := State.reset_inv

/-- Settles O19: the vectors and the display read 0 everywhere, memory reads as unlisted, and the scalar elements are as
`State.reset` lists them. -/
theorem resetIsSpecs : Obligations.ResetIsSpecs := by
  have glyphs (a : Nat) (inFont : a < 80) :
      State.reset.mem.read a = (fontRows.getD (a / 5) []).getD (a % 5) 0 :=
    (Memory.unlisted_eq a).trans (font_getD_eq_glyphByte a inFont)
  exact ⟨State.reset_reg, rfl, rfl, rfl, State.reset_stack_get, rfl, rfl, rfl, fun cx cy _ _ => State.reset_pixel cx cy,
    rfl, rfl, rfl, rfl, rfl, glyphs, fun _ => Memory.unlisted_above_font⟩
end
